-- ==== Sys2Proof/Word.lean ====
section
/-! DEFINITION. The values of the block: bytes, 16-bit colours, opaque handles and error values, and the closed
enumerations the spec names (30_encoding.md R61, 10_state.md R11). All quantities are unsigned (00_scope.md R7). -/

namespace Sys2Proof

/-- A byte is 8 bits, bit 0 the least significant (00_scope.md R7). -/
abbrev Byte := BitVec 8

/-- A 16-bit RGB565 colour: red bits 15:11, green 10:5, blue 4:0 (20_memory.md R33). -/
abbrev Colour := BitVec 16

/-- A capability handle: a reference to the environment that holds no data of the block (10_state.md R10).
DESIGN CHOICE (log entry 2): handles are told apart by a number. -/
abbrev Handle := Nat

/-- The opaque value `e` of an `error(e)` answer (10_state.md R16), never inspected by the block (60_exceptions.md R140).
DESIGN CHOICE (log entry 6): told apart by a number. -/
abbrev ErrorValue := Nat

/-- The four values of `ROT` (10_state.md R11); they have no numeric encoding. -/
inductive Rotation where
  | rot0
  | rot90
  | rot180
  | rot270
  deriving DecidableEq, Repr

/-- The colour mode of the remap Command (30_encoding.md R61). -/
inductive ColourMode where
  | cm65k
  | cm256
  deriving DecidableEq, Repr

/-- The address increment mode of the remap Command: row-major or column-major (30_encoding.md R61). -/
inductive AddrIncMode where
  | horizontal
  | vertical
  deriving DecidableEq, Repr

/-- The level of a control line (30_encoding.md R61). -/
inductive Level where
  | low
  | high
  deriving DecidableEq, Repr

/-- The other level of a control line. -/
def Level.opposite : Level → Level
  | .low => .high
  | .high => .low

end Sys2Proof
end

