-- ==== Sys2Proof/Config.lean ====
section
/-! DEFINITION. What the source fixes (00_scope.md R5, constants) and what it leaves open (R6, the fields of `Config`).
The record is an argument of every definition that needs it; no default stands in any other definition.
Log entry 3 says where the defaults come from and that a claim naming one is a claim about the record. -/

namespace Sys2Proof

/-- `WIDTH`, the unrotated physical width in pixels (R5). -/
def WIDTH : Nat := 96
/-- `HEIGHT`, the unrotated physical height in pixels (R5). -/
def HEIGHT : Nat := 64
/-- `BYTES_PER_PIXEL` (R5). -/
def BYTES_PER_PIXEL : Nat := 2
/-- `FB_SIZE = WIDTH * HEIGHT * 2 = 12288` (R5). -/
def FB_SIZE : Nat := WIDTH * HEIGHT * BYTES_PER_PIXEL
/-- `MAX_WIRE_LEN`, the longest Command (R5). -/
def MAX_WIRE_LEN : Nat := 11

/-- The eighteen first bytes of the catalogue, one for each row of opcode_table.json (30_encoding.md R54, R56). -/
inductive Opcode where
  | contrast
  | columnAddress
  | rowAddress
  | remapAndColorDepth
  | displayClockDiv
  | preChargePeriod
  | drawLine
  | drawRect
  | displayOnTrue
  | displayOnFalse
  | multiplex
  | startLine
  | displayOffset
  | vcomhDeselect
  | allOnTrue
  | allOnFalse
  | invertTrue
  | invertFalse
  deriving DecidableEq, Repr

/-- All eighteen, in the order of opcode_table.json. -/
def Opcode.all : List Opcode :=
  [.contrast, .columnAddress, .rowAddress, .remapAndColorDepth, .displayClockDiv, .preChargePeriod] ++
  [.drawLine, .drawRect, .displayOnTrue, .displayOnFalse, .multiplex, .startLine] ++
  [.displayOffset, .vcomhDeselect, .allOnTrue, .allOnFalse, .invertTrue, .invertFalse]

/-- One row of `ROT_TABLE` (41_rotation_geometry.md R100). -/
structure RotRow where
  hMirror : Bool
  vMirror : Bool
  inc : AddrIncMode
  deriving DecidableEq, Repr

/-- `ROT_TABLE`, a parameter of the block (R6, R100). -/
structure RotTable where
  rot0 : RotRow
  rot90 : RotRow
  rot180 : RotRow
  rot270 : RotRow
  deriving DecidableEq, Repr

/-- `ROT_TABLE(r)`. -/
def RotTable.row (t : RotTable) : Rotation → RotRow
  | .rot0 => t.rot0
  | .rot90 => t.rot90
  | .rot180 => t.rot180
  | .rot270 => t.rot270

/-- The parameters the source leaves open, one field for each row of the table of 00_scope.md R6. -/
structure Config where
  opcColumnAddress : Byte
  opcRowAddress : Byte
  opcDrawLine : Byte
  opcDrawRect : Byte
  opcStartLine : Byte
  opcDisplayOffset : Byte
  opcInvertFalse : Byte
  opcAllOnTrue : Byte
  opcAllOnFalse : Byte
  opcInvertTrue : Byte
  opcMultiplex : Byte
  opcDisplayOff : Byte
  opcDisplayOn : Byte
  opcPrecharge : Byte
  opcClockDiv : Byte
  opcVcomh : Byte
  /-- The one-bit code of `CM65k` at bit 6 of the remap byte (90_conflicts.md C1). -/
  cm65kCode : BitVec 1
  /-- The code of the column-major mode at bit 0 of the remap byte. -/
  incVerticalCode : BitVec 1
  rotTable : RotTable
  dcCommandLevel : Level
  cmdArraySize : Nat
  initClockOsc : Byte
  initClockDiv : Byte
  initContrastR : Byte
  initContrastG : Byte
  initContrastB : Byte
  initPrechargeP1 : Byte
  initPrechargeP2 : Byte
  initVcomhLevel : Byte
  resetDelayMs : Nat
  coordBits : Nat
  deriving DecidableEq, Repr

/-- The default of `ROT_TABLE` (R100); the rows of `Rot90` and `Rot270` are general knowledge (93 G3). -/
def RotTable.default : RotTable where
  rot0 := ⟨false, false, .horizontal⟩
  rot90 := ⟨true, false, .vertical⟩
  rot180 := ⟨true, true, .horizontal⟩
  rot270 := ⟨false, true, .vertical⟩

/-- The default column of the table of R6. PRESUMED (log entry 3): general knowledge, as the spec says. -/
def Config.default : Config where
  opcColumnAddress := 0x15
  opcRowAddress := 0x75
  opcDrawLine := 0x21
  opcDrawRect := 0x22
  opcStartLine := 0xA1
  opcDisplayOffset := 0xA2
  opcInvertFalse := 0xA4
  opcAllOnTrue := 0xA5
  opcAllOnFalse := 0xA6
  opcInvertTrue := 0xA7
  opcMultiplex := 0xA8
  opcDisplayOff := 0xAE
  opcDisplayOn := 0xAF
  opcPrecharge := 0xB1
  opcClockDiv := 0xB3
  opcVcomh := 0xBE
  cm65kCode := 0
  incVerticalCode := 1
  rotTable := RotTable.default
  dcCommandLevel := .low
  cmdArraySize := 11
  initClockOsc := 0x0F
  initClockDiv := 0x00
  initContrastR := 0x91
  initContrastG := 0x50
  initContrastB := 0x7D
  initPrechargeP1 := 0x01
  initPrechargeP2 := 0x03
  initVcomhLevel := 0x1F
  resetDelayMs := 1
  coordBits := 32

/-- The level of the data/command line for data: the opposite of the command level (R6). -/
def Config.dcDataLevel (cfg : Config) : Level := cfg.dcCommandLevel.opposite

end Sys2Proof
end

