-- ==== Sys2Proof/Syntax.lean ====
section
/-! DEFINITION. The Commands of the block: the abstract form of the eighteen rows of opcode_table.json (30_encoding.md
R54; two rows for each of the three Boolean variants). Numeric operands are 8-bit, colours 16-bit (40_command_codec.md R87). -/

namespace Sys2Proof

/-- A Command value of the closed catalogue (30_encoding.md R50, R54). -/
inductive Instr where
  /-- R71: contrast of the red, green and blue channel. -/
  | contrast (r g b : Byte)
  /-- R72: column extent of the draw window. -/
  | columnAddress (start stop : Byte)
  /-- R73: row extent of the draw window. -/
  | rowAddress (start stop : Byte)
  /-- R74: the device's remap register. -/
  | remapAndColorDepth (hMirror vMirror : Bool) (mode : ColourMode) (inc : AddrIncMode)
  /-- R75. -/
  | displayClockDiv (osc div : Byte)
  /-- R76. -/
  | preChargePeriod (p1 p2 : Byte)
  /-- R77: start column, start row, end column, end row, colour. -/
  | drawLine (c1 r1 c2 r2 : Byte) (colour : Colour)
  /-- R78: corners as in R77, outline colour, fill colour. -/
  | drawRect (c1 r1 c2 r2 : Byte) (outline fill : Colour)
  /-- R79 with `on = true`. -/
  | displayOnTrue
  /-- R79 with `on = false`. -/
  | displayOnFalse
  /-- R80. -/
  | multiplex (ratio : Byte)
  /-- R81. -/
  | startLine (line : Byte)
  /-- R82. -/
  | displayOffset (offset : Byte)
  /-- R83: a level code, carried as an 8-bit value. -/
  | vcomhDeselect (level : Byte)
  /-- R84 with `on = true`. -/
  | allOnTrue
  /-- R84 with `on = false`. -/
  | allOnFalse
  /-- R85 with `inv = true`. -/
  | invertTrue
  /-- R85 with `inv = false`. -/
  | invertFalse
  deriving DecidableEq, Repr

/-- `DisplayOn(on)` (R79). -/
def Instr.displayOn (on : Bool) : Instr := if on then .displayOnTrue else .displayOnFalse
/-- `AllOn(on)` (R84). -/
def Instr.allOn (on : Bool) : Instr := if on then .allOnTrue else .allOnFalse
/-- `Invert(inv)` (R85). -/
def Instr.invert (inv : Bool) : Instr := if inv then .invertTrue else .invertFalse

/-- The row of the opcode map a Command belongs to. -/
def Instr.opcode : Instr → Opcode
  | .contrast _ _ _ => .contrast
  | .columnAddress _ _ => .columnAddress
  | .rowAddress _ _ => .rowAddress
  | .remapAndColorDepth _ _ _ _ => .remapAndColorDepth
  | .displayClockDiv _ _ => .displayClockDiv
  | .preChargePeriod _ _ => .preChargePeriod
  | .drawLine _ _ _ _ _ => .drawLine
  | .drawRect _ _ _ _ _ _ => .drawRect
  | .displayOnTrue => .displayOnTrue
  | .displayOnFalse => .displayOnFalse
  | .multiplex _ => .multiplex
  | .startLine _ => .startLine
  | .displayOffset _ => .displayOffset
  | .vcomhDeselect _ => .vcomhDeselect
  | .allOnTrue => .allOnTrue
  | .allOnFalse => .allOnFalse
  | .invertTrue => .invertTrue
  | .invertFalse => .invertFalse

end Sys2Proof
end

