-- ==== Sys2Proof/Machine/Flags.lean ====
section
/-! DEFINITION. The block has no status flags, no condition codes and no sticky bits (10_state.md R22): nothing computes one.
The only flags of the spec are the one-bit fields of the remap configuration byte (30_encoding.md R53 (b), (c) and R55);
they are assembled and read back here. -/

namespace Sys2Proof

/-- `b2i(t)` (00_scope.md R7). -/
def b2i (t : Bool) : Byte := if t then 1#8 else 0#8

/-- R53 (c): the colour-mode code. -/
def colourModeCode (cfg : Config) : ColourMode → BitVec 1
  | .cm65k => cfg.cm65kCode
  | .cm256 => 1#1 - cfg.cm65kCode

/-- R53 (c): the increment-mode code; `Horizontal` is 0 (R5 `INC_HORIZONTAL_CODE`). -/
def incCode (cfg : Config) : AddrIncMode → BitVec 1
  | .horizontal => 0#1
  | .vertical => cfg.incVerticalCode

/-- R55: the second byte of RemapAndColorDepth. -/
def remapByte (cfg : Config) (hMirror vMirror : Bool) (mode : ColourMode) (inc : AddrIncMode) : Byte :=
  0x20#8 ||| (b2i vMirror <<< 4) ||| (b2i hMirror <<< 1) |||
    ((colourModeCode cfg mode).setWidth 8 <<< 6) ||| (incCode cfg inc).setWidth 8

/-- R56 (b): bits 7, 3 and 2 are 0 and bit 5 is 1. -/
def remapLegal (b : Byte) : Bool := b &&& 0xAC#8 == 0x20#8

/-- The one-bit field of a byte at a position. -/
def bitAt (b : Byte) (pos : Nat) : BitVec 1 := (b >>> pos).setWidth 1

/-- The colour mode whose code stands at bit 6. -/
def colourModeOf (cfg : Config) (b : Byte) : ColourMode :=
  if bitAt b 6 = cfg.cm65kCode then .cm65k else .cm256

/-- The increment mode whose code stands at bit 0; none when the bit is the code of neither mode. -/
def incOf (cfg : Config) (b : Byte) : Option AddrIncMode :=
  if bitAt b 0 = 0#1 then some .horizontal
  else if bitAt b 0 = cfg.incVerticalCode then some .vertical else none

end Sys2Proof
end

