-- ==== Sys2Proof/Machine/Operands.lean ====
section
/-! DEFINITION. How each kind of operand becomes bits (30_encoding.md R53; 40_command_codec.md R87), with the inverse of each
packing that a decoder needs (30_encoding.md R56). A raw byte (R53 (a)) is placed unchanged and needs no definition. -/

namespace Sys2Proof

/-- R53 (d): two operands, each masked to its low four bits, the first in the high nibble. -/
def nibblePair (hiArg loArg : Byte) : Byte := ((hiArg &&& 0x0F#8) <<< 4) ||| (loArg &&& 0x0F#8)

/-- The high nibble of a byte (R7). -/
def highNibble (b : Byte) : Byte := b >>> 4

/-- The low nibble of a byte (R7). -/
def lowNibble (b : Byte) : Byte := b &&& 0x0F#8

/-- R53 (e): the red channel byte, bits 15:11 taken and then shifted right by 10. -/
def redByte (c : Colour) : Byte := ((c &&& 0xF800#16) >>> 10).setWidth 8

/-- R53 (e): the green channel byte, bits 10:5 taken and then shifted right by 5. -/
def greenByte (c : Colour) : Byte := ((c &&& 0x07E0#16) >>> 5).setWidth 8

/-- R53 (e): the blue channel byte, bits 4:0 taken and then shifted left by 1. -/
def blueByte (c : Colour) : Byte := ((c &&& 0x001F#16) <<< 1).setWidth 8

/-- R53 (e): a colour as three bytes, red, green, blue. -/
def channels (c : Colour) : List Byte := [redByte c, greenByte c, blueByte c]

/-- R56 (d): what the three channel bytes of a colour can be. -/
def channelsLegal (r g b : Byte) : Bool :=
  r &&& 0xC1#8 == 0#8 && g &&& 0xC0#8 == 0#8 && b &&& 0xC1#8 == 0#8

/-- The colour whose channel bytes are these (inverse of `channels` on legal channel bytes). -/
def colourOfChannels (r g b : Byte) : Colour :=
  (r.setWidth 16 <<< 10) ||| (g.setWidth 16 <<< 5) ||| (b.setWidth 16 >>> 1)

/-- R53 (f): the VCOMH level code at bits 5:1. -/
def vcomhPack (level : Byte) : Byte := (level &&& 0x1F#8) <<< 1

/-- R56 (e): what the second byte of VcomhDeselect can be. -/
def vcomhLegal (b : Byte) : Bool := b &&& 0xC1#8 == 0#8

/-- The level code of a packed level. -/
def vcomhUnpack (b : Byte) : Byte := b >>> 1

end Sys2Proof
end

