-- ==== Sys2Proof/Decode.lean ====
section
/-! DEFINITION. The wire form of the Commands: a decoder total on any byte sequence (30_encoding.md R56, R57), then the
encoder `enc` (40_command_codec.md R71 to R86), both from the tables of 30_encoding.md; and the reading of a table word. -/

namespace Sys2Proof

/-- The opcode map (30_encoding.md R54): byte 0 of the wire bytes. -/
def firstByte (cfg : Config) : Opcode → Byte
  | .contrast => 0x81#8
  | .columnAddress => cfg.opcColumnAddress
  | .rowAddress => cfg.opcRowAddress
  | .remapAndColorDepth => 0xA0#8
  | .displayClockDiv => cfg.opcClockDiv
  | .preChargePeriod => cfg.opcPrecharge
  | .drawLine => cfg.opcDrawLine
  | .drawRect => cfg.opcDrawRect
  | .displayOnTrue => cfg.opcDisplayOn
  | .displayOnFalse => cfg.opcDisplayOff
  | .multiplex => cfg.opcMultiplex
  | .startLine => cfg.opcStartLine
  | .displayOffset => cfg.opcDisplayOffset
  | .vcomhDeselect => cfg.opcVcomh
  | .allOnTrue => cfg.opcAllOnTrue
  | .allOnFalse => cfg.opcAllOnFalse
  | .invertTrue => cfg.opcInvertTrue
  | .invertFalse => cfg.opcInvertFalse

/-- The wire length of each row (30_encoding.md R52, R54, R57). -/
def Opcode.wireLen : Opcode → Nat
  | .contrast => 6
  | .columnAddress => 3
  | .rowAddress => 3
  | .remapAndColorDepth => 2
  | .displayClockDiv => 2
  | .preChargePeriod => 2
  | .drawLine => 8
  | .drawRect => 11
  | .displayOnTrue => 1
  | .displayOnFalse => 1
  | .multiplex => 2
  | .startLine => 2
  | .displayOffset => 2
  | .vcomhDeselect => 2
  | .allOnTrue => 1
  | .allOnFalse => 1
  | .invertTrue => 1
  | .invertFalse => 1

/-- The row whose first byte this is, if any. -/
def opcodeOf (cfg : Config) (b : Byte) : Option Opcode :=
  Opcode.all.find? (fun o => firstByte cfg o == b)

/-- R57: the length of a Command, from byte 0 alone. -/
def wireLenOf (cfg : Config) (b : Byte) : Option Nat := (opcodeOf cfg b).map Opcode.wireLen

/-- The operand bytes of a row read back; none is the verdict `invalid` of R56. -/
def decodeOperands (cfg : Config) : Opcode → List Byte → Option (Instr × List Byte)
  | .contrast, r :: x :: g :: y :: b :: rest =>
    if x = 0x82#8 ∧ y = 0x83#8 then some (.contrast r g b, rest) else none
  | .columnAddress, a :: b :: rest => some (.columnAddress a b, rest)
  | .rowAddress, a :: b :: rest => some (.rowAddress a b, rest)
  | .remapAndColorDepth, c :: rest =>
    if remapLegal c then
      (incOf cfg c).map fun inc =>
        (.remapAndColorDepth (bitAt c 1 == 1#1) (bitAt c 4 == 1#1) (colourModeOf cfg c) inc, rest)
    else none
  | .displayClockDiv, n :: rest => some (.displayClockDiv (highNibble n) (lowNibble n), rest)
  | .preChargePeriod, n :: rest => some (.preChargePeriod (lowNibble n) (highNibble n), rest)
  | .drawLine, c1 :: r1 :: c2 :: r2 :: r :: g :: b :: rest =>
    if channelsLegal r g b then some (.drawLine c1 r1 c2 r2 (colourOfChannels r g b), rest) else none
  | .drawRect, c1 :: r1 :: c2 :: r2 :: r :: g :: b :: fr :: fg :: fb :: rest =>
    if channelsLegal r g b && channelsLegal fr fg fb then
      some (.drawRect c1 r1 c2 r2 (colourOfChannels r g b) (colourOfChannels fr fg fb), rest)
    else none
  | .displayOnTrue, rest => some (.displayOnTrue, rest)
  | .displayOnFalse, rest => some (.displayOnFalse, rest)
  | .multiplex, a :: rest => some (.multiplex a, rest)
  | .startLine, a :: rest => some (.startLine a, rest)
  | .displayOffset, a :: rest => some (.displayOffset a, rest)
  | .vcomhDeselect, v :: rest => if vcomhLegal v then some (.vcomhDeselect (vcomhUnpack v), rest) else none
  | .allOnTrue, rest => some (.allOnTrue, rest)
  | .allOnFalse, rest => some (.allOnFalse, rest)
  | .invertTrue, rest => some (.invertTrue, rest)
  | .invertFalse, rest => some (.invertFalse, rest)
  | .contrast, _ => none
  | .columnAddress, _ => none
  | .rowAddress, _ => none
  | .remapAndColorDepth, _ => none
  | .displayClockDiv, _ => none
  | .preChargePeriod, _ => none
  | .drawLine, _ => none
  | .drawRect, _ => none
  | .multiplex, _ => none
  | .startLine, _ => none
  | .displayOffset, _ => none
  | .vcomhDeselect, _ => none

/-- R56: the Command that the wire bytes start with, and the bytes after it; none is `invalid` (92 D32). -/
def decode (cfg : Config) : List Byte → Option (Instr × List Byte)
  | [] => none
  | b :: rest => (opcodeOf cfg b).bind fun o => decodeOperands cfg o rest

/-! The encoder: one definition for each Command, from its own rule. -/

/-- R71. -/
def encContrast (r g b : Byte) : List Byte := [0x81#8, r, 0x82#8, g, 0x83#8, b]
/-- R72. -/
def encColumnAddress (cfg : Config) (start stop : Byte) : List Byte := [cfg.opcColumnAddress, start, stop]
/-- R73. -/
def encRowAddress (cfg : Config) (start stop : Byte) : List Byte := [cfg.opcRowAddress, start, stop]
/-- R74. -/
def encRemapAndColorDepth (cfg : Config) (hMirror vMirror : Bool) (mode : ColourMode) (inc : AddrIncMode) :
    List Byte := [0xA0#8, remapByte cfg hMirror vMirror mode inc]
/-- R75: the first operand is the high nibble. -/
def encDisplayClockDiv (cfg : Config) (osc div : Byte) : List Byte := [cfg.opcClockDiv, nibblePair osc div]
/-- R76: the SECOND operand is the high nibble (90_conflicts.md C7, 70_reset_and_hazards.md R173). -/
def encPreChargePeriod (cfg : Config) (p1 p2 : Byte) : List Byte := [cfg.opcPrecharge, nibblePair p2 p1]
/-- R77. -/
def encDrawLine (cfg : Config) (c1 r1 c2 r2 : Byte) (colour : Colour) : List Byte :=
  [cfg.opcDrawLine, c1, r1, c2, r2] ++ channels colour
/-- R78. -/
def encDrawRect (cfg : Config) (c1 r1 c2 r2 : Byte) (outline fill : Colour) : List Byte :=
  [cfg.opcDrawRect, c1, r1, c2, r2] ++ channels outline ++ channels fill
/-- R79, `on = true`. -/
def encDisplayOnTrue (cfg : Config) : List Byte := [cfg.opcDisplayOn]
/-- R79, `on = false`. -/
def encDisplayOnFalse (cfg : Config) : List Byte := [cfg.opcDisplayOff]
/-- R80: not masked. -/
def encMultiplex (cfg : Config) (ratio : Byte) : List Byte := [cfg.opcMultiplex, ratio]
/-- R81: not masked. -/
def encStartLine (cfg : Config) (line : Byte) : List Byte := [cfg.opcStartLine, line]
/-- R82: not masked. -/
def encDisplayOffset (cfg : Config) (offset : Byte) : List Byte := [cfg.opcDisplayOffset, offset]
/-- R83. -/
def encVcomhDeselect (cfg : Config) (level : Byte) : List Byte := [cfg.opcVcomh, vcomhPack level]
/-- R84, `on = true`. -/
def encAllOnTrue (cfg : Config) : List Byte := [cfg.opcAllOnTrue]
/-- R84, `on = false`. -/
def encAllOnFalse (cfg : Config) : List Byte := [cfg.opcAllOnFalse]
/-- R85, `inv = true`. -/
def encInvertTrue (cfg : Config) : List Byte := [cfg.opcInvertTrue]
/-- R85, `inv = false`. -/
def encInvertFalse (cfg : Config) : List Byte := [cfg.opcInvertFalse]

/-- The wire bytes of a Command (40_command_codec.md R86: total, pure, no validation). The output array with its padding
is `CmdBuf` (R88 allows both pictures). -/
def encode (cfg : Config) : Instr → List Byte
  | .contrast r g b => encContrast r g b
  | .columnAddress start stop => encColumnAddress cfg start stop
  | .rowAddress start stop => encRowAddress cfg start stop
  | .remapAndColorDepth h v mode inc => encRemapAndColorDepth cfg h v mode inc
  | .displayClockDiv osc div => encDisplayClockDiv cfg osc div
  | .preChargePeriod p1 p2 => encPreChargePeriod cfg p1 p2
  | .drawLine c1 r1 c2 r2 colour => encDrawLine cfg c1 r1 c2 r2 colour
  | .drawRect c1 r1 c2 r2 outline fill => encDrawRect cfg c1 r1 c2 r2 outline fill
  | .displayOnTrue => encDisplayOnTrue cfg
  | .displayOnFalse => encDisplayOnFalse cfg
  | .multiplex ratio => encMultiplex cfg ratio
  | .startLine line => encStartLine cfg line
  | .displayOffset offset => encDisplayOffset cfg offset
  | .vcomhDeselect level => encVcomhDeselect cfg level
  | .allOnTrue => encAllOnTrue cfg
  | .allOnFalse => encAllOnFalse cfg
  | .invertTrue => encInvertTrue cfg
  | .invertFalse => encInvertFalse cfg

/-! Table words. -/

/-- The wire bytes of a table word: opcode_table.json writes an instruction as one number whose most significant byte is
byte 0, the first on the wire (30_encoding.md, opening paragraph; log entry 12). Bytes past `nbits`, up to the longest
Command, are 0. -/
def tableBytes (nbits w : Nat) : List Byte :=
  let n := (nbits + 7) / 8
  ((List.range n).map fun k => BitVec.ofNat 8 (w >>> (8 * (n - 1 - k)))) ++ List.replicate (MAX_WIRE_LEN - n) 0#8

/-- The Command the decoder reads from a table word, under the default parameters the table is printed with. -/
def decodeTableWord (nbits w : Nat) : Option Instr :=
  (decode Config.default (tableBytes nbits w)).map Prod.fst

end Sys2Proof
end

