-- ==== Sys2Proof/Machine/Request.lean ====
section
/-! DEFINITION. The vocabulary of the block's two surfaces: what the host asks and gets back (10_state.md R19, 30_encoding.md
R60) and what the capabilities are asked and answer (10_state.md R16 to R18, R21; 60_exceptions.md R140, R141). -/

namespace Sys2Proof.Machine

/-- What the host may request: the thirteen operations of the driver surface (R60) and the cooperative variant of `flush`
(42_framebuffer.md R116). `x` and `y` are `COORD_BITS`-bit unsigned values (R6), checked by `Request.wf`. `turnTo` is no
operation: it says which of several instances (10_state.md R24) the following requests are for (log entry 10). -/
inductive Request where
  | new (transport controlLine : Handle) (rotation : Rotation)
  | reset (resetLine delay : Handle)
  | init
  | clear
  | setPixel (x y : Nat) (colour : Colour)
  | flush
  | flushCooperative
  | setDrawArea (sx sy ex ey : Byte)
  | dimensions
  | setRotation (r : Rotation)
  | rotation
  | turnOn
  | turnOff
  | release
  | turnTo (transport : Handle)
  deriving DecidableEq, Repr

/-- One request of the host's script. `waits = false` is a caller that does not wait for the answer of the operation in
progress (20_memory.md R41); it makes no difference when none is. Log entries 8 and 9. -/
structure HostInput where
  request : Request
  waits : Bool
  deriving DecidableEq, Repr

/-- The operations that make capability calls (43_init_sequencer.md R132). `send` is the codec's own (40_command_codec.md
R70): it is not on the driver surface, and its Command stands in `CMDBUF`. -/
inductive Operation where
  | send
  | setRotation (r : Rotation)
  | setDrawArea (sx sy ex ey : Byte)
  | flush
  | flushCooperative
  | reset (resetLine delay : Handle)
  | init
  | turnOn
  | turnOff
  deriving DecidableEq, Repr

/-- The two failure kinds (60_exceptions.md R140). -/
inductive Failure where
  | commFailure (e : ErrorValue)
  | pinFailure (e : ErrorValue)
  deriving DecidableEq, Repr

/-- What an operation returns to the host (30_encoding.md R60). `nothing` is the answer of `clear` and `set_pixel`. -/
inductive Reply where
  | driver
  | ok
  | nothing
  | dims (w h : Nat)
  | rotationIs (r : Rotation)
  | handles (transport controlLine : Handle)
  | failure (f : Failure)
  deriving DecidableEq, Repr

/-- The answer of a capability call (10_state.md R16, R17). -/
inductive Answer where
  | ok
  | error (e : ErrorValue)
  deriving DecidableEq, Repr

/-- An interface event: one capability call with its arguments and its answer (10_state.md R21). -/
inductive Event where
  | dcSet (level : Level) (a : Answer)
  | rstSet (level : Level) (a : Answer)
  | busWrite (bytes : List Byte) (a : Answer)
  | delayMs (n : Nat)
  deriving DecidableEq, Repr

/-- An endless sequence as plain data: the listed values, then the last one for ever. -/
structure Script (α : Type) where
  upcoming : List α
  after : α
  deriving DecidableEq, Repr

/-- The next value of a script. -/
def Script.head {α : Type} (p : Script α) : α := p.upcoming.headD p.after

/-- A script without its next value. -/
def Script.tail {α : Type} (p : Script α) : Script α := { p with upcoming := p.upcoming.tail }

/-- A script without its next `n` values. -/
def Script.skip {α : Type} (p : Script α) (n : Nat) : Script α := { p with upcoming := p.upcoming.drop n }

/-- The value `n` places on in a script. -/
def Script.get {α : Type} (p : Script α) (n : Nat) : α := p.upcoming.getD n p.after

end Sys2Proof.Machine
end

