-- ==== Sys2Proof/Machine/State.lean ====
section
/-! DEFINITION. The state of the block (10_state.md R10), the host's and the environment's inputs, and the observation
(R21). Plain data throughout. -/

namespace Sys2Proof.Machine

/-- `FB` as the list of its non-zero bytes (20_memory.md R30, R31): addresses rising, no zero listed. -/
abbrev Memory := List Host.Cell

/-- `CMDBUF` and `CMDLEN` (10_state.md R15). -/
structure CmdBuf where
  bytes : List Byte
  len : Nat
  deriving DecidableEq, Repr

/-- One driver instance (10_state.md R10 (a) to (c)): `ROT`, `FB`, and the two handles it holds. -/
structure Driver where
  rot : Rotation
  fb : Memory
  bus : Handle
  dc : Handle
  deriving DecidableEq, Repr

/-- The operation in progress: its operands (for `reset` the two lent handles, R18), `seq`, the count of micro-steps that
have answered `ok` (R14), and whether the data write of a cooperative `flush` is issued and unanswered (42_framebuffer.md R116). -/
structure Running where
  op : Operation
  seq : Nat
  pending : Bool
  deriving DecidableEq, Repr

/-- A living instance that the host is not addressing (10_state.md R24): its registers and memory, whether it waits for the
answer of its data write (42_framebuffer.md R116), and its own trace (R21). -/
structure Instance where
  driver : Driver
  suspended : Bool
  trace : List Event
  deriving DecidableEq, Repr

structure State where
  /-- The configuration record (00_scope.md R6), which no step changes. -/
  cfg : Config
  /-- The instance that the host addresses; none before `new` and after `release` (10_state.md R24). -/
  driver : Option Driver
  /-- The other living instances, the one left last first (10_state.md R24; log entry 10). -/
  others : List Instance
  /-- The operation in progress (R10 (d)); none between operations. -/
  op : Option Running
  /-- `CMDBUF`, `CMDLEN` (R10 (e)); none outside a `send`. -/
  cmdbuf : Option CmdBuf
  /-- The host's further requests, in order (R19; log entry 8). -/
  requests : List HostInput
  /-- The environment's answers to the calls of `BUS`, `DC` and `RST`, in the order the calls are made; none is a call that
  never answers (60_exceptions.md R154; log entries 4 and 7). -/
  answers : Script (Option Answer)
  /-- Whether each further `DELAY.ms` call returns (R154; log entry 5). -/
  delays : Script Bool
  /-- The event trace of the instance (R21): an observation, not read by any step. -/
  trace : List Event
  /-- The value returned to the host by the last ended operation (R22): an observation, not read by any step. -/
  reply : Option Reply
  deriving DecidableEq, Repr

/-- Why the machine has no next state. -/
inductive Fault where
  /-- A capability call, `DC.set`, `RST.set`, `BUS.write` or `DELAY.ms`, never answers: the operation never returns
  (60_exceptions.md R154, 93 U10 `stuck`). Raised by every meaning that makes a call. Safe. -/
  | capabilityNeverAnswers
  /-- `MemWrite` outside `FB` (00_scope.md R8: defined only when `i + n <= FB_SIZE`). Raised by `set_pixel` alone, whose bounds
  test excludes it (42_framebuffer.md R111). Safe. -/
  | framebufferRange
  /-- `BUS.write` of a Command when `CMDBUF` holds no value (10_state.md R15: it has one until the end of the `send`). Raised
  by the second micro-step of a `send` in a state that no run reaches. Safe. -/
  | noCommandEncoded
  deriving DecidableEq, Repr

/-- What the model rejects. -/
inductive Refusal where
  /-- An instruction without a meaning in `exec`. None at present. Safe. -/
  | notModelled (mnemonic : String)
  /-- A request on an instance that does not exist (10_state.md R19, 93 U14 `refuse`). Raised by every operation but `new`,
  by every Command, and by turning to an instance that does not exist. Safe. -/
  | noDriver
  /-- `new` with a transport or a control line that a living instance holds: such an instance does not exist ("only if each
  has its own transport and control line", 10_state.md R24; "give handles nobody else uses", 70_reset_and_hazards.md R178).
  And `reset` with a reset line that a living instance holds as its control line: "the instance holds `BUS` and `DC`
  exclusively from `new` to `release`" (60_exceptions.md R148), and "anyone else driving `DC`" has no move in a model (R178).
  Raised by `new` and `reset`. Safe. -/
  | handleInUse
  /-- A second request while one is outstanding (60_exceptions.md R155, 93 U6 `refuse`). Raised by `step`. Safe. -/
  | overlappingRequest
  /-- Operands that are not of the stated width (30_encoding.md R60): not a request of the driver surface. Raised by `step`.
  Safe. -/
  | illTypedRequest
  /-- Wire bytes that are the encoding of no Command (30_encoding.md R56, 93 U11 `invalid`). Raised by `step` on a bare
  `send`. Safe. -/
  | invalidEncoding
  deriving DecidableEq, Repr

/-- The state right after `new(transport, control_line, rotation)` (10_state.md R23), for a given record. -/
def State.afterNew (cfg : Config) (transport controlLine : Handle) (rotation : Rotation) : State where
  cfg := cfg
  driver := some { rot := rotation, fb := [], bus := transport, dc := controlLine }
  others := []
  op := none
  cmdbuf := none
  requests := []
  answers := { upcoming := [], after := some .ok }
  delays := { upcoming := [], after := true }
  trace := []
  reply := some .driver

/-- The block's only reset is `new` (70_reset_and_hazards.md R160). DESIGN CHOICE: the rotation argument is `Rot0` (log entry
1), the handles are 0 and 1 (log entry 2), the scripts list nothing and then answer `ok` (log entries 4, 5, 8). -/
def State.reset : State := State.afterNew Config.default 0 1 .rot0

end Sys2Proof.Machine
end

