-- ==== Sys2Proof/Machine/Ops.lean ====
section
/-! DEFINITION. The shared operations: the framebuffer memory, the output array, the capability calls with the one way an
`error` answer ends an operation (60_exceptions.md R142), and `send` (40_command_codec.md R70). -/

namespace Sys2Proof.Machine

/-! ## Framebuffer memory (20_memory.md R30 to R36) -/

/-- What an unlisted location reads as: `FB` is created zero-filled (10_state.md R12). -/
def Memory.unlisted : Byte := 0x00#8

/-- `FB[i]`. -/
def Memory.read : Memory → Nat → Byte
  | [], _ => Memory.unlisted
  | (k, v) :: rest, a => if a = k then v else Memory.read rest a

/-- `FB[a] <- b`, keeping the canonical form. -/
def Memory.put : Memory → Nat → Byte → Memory
  | [], a, b => if b = Memory.unlisted then [] else [(a, b)]
  | (k, v) :: rest, a, b =>
    if a < k then (if b = Memory.unlisted then (k, v) :: rest else (a, b) :: (k, v) :: rest)
    else if a = k then (if b = Memory.unlisted then rest else (a, b) :: rest)
    else (k, v) :: Memory.put rest a b

/-- The bytes in order, from index `i` on. -/
def Memory.putAll (m : Memory) : Nat → List Byte → Memory
  | _, [] => m
  | i, b :: bs => Memory.putAll (m.put i b) (i + 1) bs

/-- `MemWrite(i, n, bytes)` (00_scope.md R8): defined only when `i + n <= FB_SIZE`. -/
def Memory.write (m : Memory) (i : Nat) (bytes : List Byte) : Option Memory :=
  if i + bytes.length ≤ FB_SIZE then some (m.putAll i bytes) else none

/-- `MemRead(0, FB_SIZE)`: all bytes in index order (42_framebuffer.md R115). -/
def Memory.bytes (m : Memory) : List Byte := (List.range FB_SIZE).map m.read

/-- Every `FB[i]` is 0x00 (10_state.md R23, 42_framebuffer.md R113). -/
def Memory.zeroed : Memory := []

/-- The canonical form: addresses rising, below `FB_SIZE`, no entry equal to what an unlisted location reads as. -/
def Memory.wfFrom (lo : Nat) : Memory → Bool
  | [] => true
  | (k, v) :: rest =>
    decide (lo ≤ k) && decide (k < FB_SIZE) && decide (v ≠ Memory.unlisted) && Memory.wfFrom (k + 1) rest

/-- The canonical form of a whole memory. -/
def Memory.wf (m : Memory) : Bool := Memory.wfFrom 0 m

/-! ## The output array (10_state.md R15, 40_command_codec.md R88) -/

/-- `(CMDBUF, CMDLEN)` for these wire bytes: the rest of the array is padding, 0 (92 D8; log entry 13). -/
def CmdBuf.ofWire (size : Nat) (wire : List Byte) : CmdBuf where
  bytes := wire ++ List.replicate (size - wire.length) 0#8
  len := wire.length

/-- `CMDBUF[0 .. CMDLEN)`, the only bytes transmitted. -/
def CmdBuf.wire (b : CmdBuf) : List Byte := b.bytes.take b.len

/-! ## Ends of an operation (70_reset_and_hazards.md R177) -/

/-- The operation ends and the host gets its answer; `seq`, `CMDBUF` and `CMDLEN` have no value then (10_state.md R10). -/
def endOperation (r : Reply) (s : State) : State := { s with op := none, cmdbuf := none, reply := some r }

/-- A failure ends the operation, and every operation around it, with that failure (60_exceptions.md R142): nothing is saved,
no mode changes, no handler is entered, `ROT` and `FB` stay as they are, and the host gets the value. -/
def failOperation (f : Failure) (s : State) : State := endOperation (.failure f) s

/-- The host gets the value of an operation without micro-steps. -/
def answerHost (r : Reply) (s : State) : State := { s with reply := some r }

/-! ## Capability calls (`try X`, 00_scope.md R8) -/

/-- How a `try` goes on: with the state after an `ok` answer, with the operation ended by a failure, or not at all. -/
inductive Tried where
  | ok (s : State)
  | failed (s : State)
  | stuck (f : Fault)

/-- What follows a `try`, made only if it answered `ok`. -/
def Tried.andThen : Tried → (State → Tried) → Tried
  | .ok s, k => k s
  | .failed s, _ => .failed s
  | .stuck f, _ => .stuck f

/-- A `try` as the outcome of a step, with what the step does after an `ok` answer. -/
def Tried.outcome (k : State → State) : Tried → Host.Outcome State Fault Refusal
  | .ok s => .next (k s)
  | .failed s => .next s
  | .stuck f => .fault f

/-- An event is appended to the trace (`emit`, 00_scope.md R8). -/
def emit (e : Event) (s : State) : State := { s with trace := s.trace ++ [e] }

/-- One call of `BUS`, `DC` or `RST`: the environment's next answer is taken and recorded with the call, and an `error`
ends the operation with this call's failure kind (60_exceptions.md R141, R142). -/
def tryCall (event : Answer → Event) (kind : ErrorValue → Failure) (s : State) : Tried :=
  match s.answers.head with
  | none => .stuck .capabilityNeverAnswers
  | some .ok => .ok (emit (event .ok) { s with answers := s.answers.tail })
  | some (.error e) =>
    .failed (failOperation (kind e) (emit (event (.error e)) { s with answers := s.answers.tail }))

/-- `try DC.set(level)` (10_state.md R17). -/
def dcSet (level : Level) (s : State) : Tried := tryCall (.dcSet level) .pinFailure s

/-- `try RST.set(level)` (10_state.md R18). -/
def rstSet (level : Level) (s : State) : Tried := tryCall (.rstSet level) .pinFailure s

/-- `try BUS.write(bytes)` (10_state.md R16). -/
def busWrite (bytes : List Byte) (s : State) : Tried := tryCall (.busWrite bytes) .commFailure s

/-- `DELAY.ms(n)` (10_state.md R18): an event, no answer, no failure; it may never return (60_exceptions.md R154). -/
def delayMs (n : Nat) (s : State) : Tried :=
  if s.delays.head then .ok (emit (.delayMs n) { s with delays := s.delays.tail })
  else .stuck .capabilityNeverAnswers

/-- One more micro-step of the operation in progress has answered `ok` (43_init_sequencer.md R132). -/
def advance (s : State) : State := { s with op := s.op.map fun r => { r with seq := r.seq + 1 } }

/-! ## send (40_command_codec.md R70) -/

/-- `(CMDBUF, CMDLEN) <- enc(cmd)`, given the wire bytes. -/
def loadCommand (wire : List Byte) (s : State) : State :=
  { s with cmdbuf := some (CmdBuf.ofWire s.cfg.cmdArraySize wire) }

/-- Micro-step 1: the data/command line is driven to its command level, whatever it was. -/
def dcCommand (s : State) : Tried := (dcSet s.cfg.dcCommandLevel s).andThen fun t => .ok (advance t)

/-- Micro-step 2: exactly the wire bytes, in one call; `CMDBUF` has no value after it (10_state.md R15). -/
def busCommand (s : State) : Tried :=
  match s.cmdbuf with
  | none => .stuck .noCommandEncoded
  | some b => (busWrite b.wire s).andThen fun t => .ok (advance { t with cmdbuf := none })

/-- A whole `send`: the Command's bytes are put in `CMDBUF`, then the two calls are made, the second only after the first
answered `ok`. The instance owns `BUS` and `DC`, so there is none without it. -/
def send (wire : List Byte) (s : State) : Host.Outcome State Fault Refusal :=
  match s.driver with
  | none => .refused .noDriver
  | some _ => ((dcCommand (loadCommand wire s)).andThen busCommand).outcome id

end Sys2Proof.Machine
end

