-- ==== Sys2Proof/Machine/Draw.lean ====
section
/-! DEFINITION. The accelerated drawing Commands DrawLine and DrawRect (40_command_codec.md R77, R78). Executing a Command is
its `send` (R70). -/

namespace Sys2Proof.Machine

/-- R77. -/
def execDrawLine (c1 r1 c2 r2 : Byte) (colour : Colour) (s : State) : Host.Outcome State Fault Refusal :=
  send (encDrawLine s.cfg c1 r1 c2 r2 colour) s

/-- R78. -/
def execDrawRect (c1 r1 c2 r2 : Byte) (outline fill : Colour) (s : State) : Host.Outcome State Fault Refusal :=
  send (encDrawRect s.cfg c1 r1 c2 r2 outline fill) s

end Sys2Proof.Machine
end

