-- ==== Sys2Proof/Machine/Mode.lean ====
section
/-! DEFINITION. The one-byte Commands DisplayOn, AllOn and Invert, one meaning for each value of the Boolean
(40_command_codec.md R79, R84, R85). Executing a Command is its `send` (R70). -/

namespace Sys2Proof.Machine

/-- R79, `on = true`. -/
def execDisplayOnTrue (s : State) : Host.Outcome State Fault Refusal := send (encDisplayOnTrue s.cfg) s

/-- R79, `on = false`. -/
def execDisplayOnFalse (s : State) : Host.Outcome State Fault Refusal := send (encDisplayOnFalse s.cfg) s

/-- R84, `on = true`. -/
def execAllOnTrue (s : State) : Host.Outcome State Fault Refusal := send (encAllOnTrue s.cfg) s

/-- R84, `on = false`. -/
def execAllOnFalse (s : State) : Host.Outcome State Fault Refusal := send (encAllOnFalse s.cfg) s

/-- R85, `inv = true`. -/
def execInvertTrue (s : State) : Host.Outcome State Fault Refusal := send (encInvertTrue s.cfg) s

/-- R85, `inv = false`. -/
def execInvertFalse (s : State) : Host.Outcome State Fault Refusal := send (encInvertFalse s.cfg) s

end Sys2Proof.Machine
end

