-- ==== Sys2Proof/Machine/Setup.lean ====
section
/-! DEFINITION. The Commands that set the device up: Contrast, DisplayClockDiv, PreChargePeriod, Multiplex, StartLine,
DisplayOffset, VcomhDeselect (40_command_codec.md R71, R75, R76, R80 to R83). Executing a Command is its `send` (R70). -/

namespace Sys2Proof.Machine

/-- R71. -/
def execContrast (r g b : Byte) (s : State) : Host.Outcome State Fault Refusal := send (encContrast r g b) s

/-- R75. -/
def execDisplayClockDiv (osc div : Byte) (s : State) : Host.Outcome State Fault Refusal :=
  send (encDisplayClockDiv s.cfg osc div) s

/-- R76. -/
def execPreChargePeriod (p1 p2 : Byte) (s : State) : Host.Outcome State Fault Refusal :=
  send (encPreChargePeriod s.cfg p1 p2) s

/-- R80. -/
def execMultiplex (ratio : Byte) (s : State) : Host.Outcome State Fault Refusal :=
  send (encMultiplex s.cfg ratio) s

/-- R81. -/
def execStartLine (line : Byte) (s : State) : Host.Outcome State Fault Refusal :=
  send (encStartLine s.cfg line) s

/-- R82. -/
def execDisplayOffset (offset : Byte) (s : State) : Host.Outcome State Fault Refusal :=
  send (encDisplayOffset s.cfg offset) s

/-- R83. -/
def execVcomhDeselect (level : Byte) (s : State) : Host.Outcome State Fault Refusal :=
  send (encVcomhDeselect s.cfg level) s

end Sys2Proof.Machine
end

