-- ==== Sys2Proof/Machine/Window.lean ====
section
/-! DEFINITION. The Commands that address the device's memory: ColumnAddress, RowAddress, RemapAndColorDepth
(40_command_codec.md R72 to R74). Executing a Command is its `send` (R70). -/

namespace Sys2Proof.Machine

/-- R72. -/
def execColumnAddress (start stop : Byte) (s : State) : Host.Outcome State Fault Refusal :=
  send (encColumnAddress s.cfg start stop) s

/-- R73. -/
def execRowAddress (start stop : Byte) (s : State) : Host.Outcome State Fault Refusal :=
  send (encRowAddress s.cfg start stop) s

/-- R74. -/
def execRemapAndColorDepth (hMirror vMirror : Bool) (mode : ColourMode) (inc : AddrIncMode) (s : State) :
    Host.Outcome State Fault Refusal :=
  send (encRemapAndColorDepth s.cfg hMirror vMirror mode inc) s

end Sys2Proof.Machine
end

