-- ==== Sys2Proof/Machine/Dispatch.lean ====
section
/-! DEFINITION. One arm for each Command: its meaning. -/

namespace Sys2Proof.Machine

def exec (i : Instr) (s : State) : Host.Outcome State Fault Refusal :=
  match i with
  | .contrast r g b => Sys2Proof.Machine.execContrast r g b s
  | .columnAddress a b => Sys2Proof.Machine.execColumnAddress a b s
  | .rowAddress a b => Sys2Proof.Machine.execRowAddress a b s
  | .remapAndColorDepth h v mode inc => Sys2Proof.Machine.execRemapAndColorDepth h v mode inc s
  | .displayClockDiv osc div => Sys2Proof.Machine.execDisplayClockDiv osc div s
  | .preChargePeriod p1 p2 => Sys2Proof.Machine.execPreChargePeriod p1 p2 s
  | .drawLine c1 r1 c2 r2 colour => Sys2Proof.Machine.execDrawLine c1 r1 c2 r2 colour s
  | .drawRect c1 r1 c2 r2 outline fill => Sys2Proof.Machine.execDrawRect c1 r1 c2 r2 outline fill s
  | .displayOnTrue => Sys2Proof.Machine.execDisplayOnTrue s
  | .displayOnFalse => Sys2Proof.Machine.execDisplayOnFalse s
  | .multiplex ratio => Sys2Proof.Machine.execMultiplex ratio s
  | .startLine line => Sys2Proof.Machine.execStartLine line s
  | .displayOffset offset => Sys2Proof.Machine.execDisplayOffset offset s
  | .vcomhDeselect level => Sys2Proof.Machine.execVcomhDeselect level s
  | .allOnTrue => Sys2Proof.Machine.execAllOnTrue s
  | .allOnFalse => Sys2Proof.Machine.execAllOnFalse s
  | .invertTrue => Sys2Proof.Machine.execInvertTrue s
  | .invertFalse => Sys2Proof.Machine.execInvertFalse s

end Sys2Proof.Machine
end

