-- ==== Sys2Proof/Machine/Rotation.lean ====
section
/-! DEFINITION. The Rotation/Geometry Resolver (41_rotation_geometry.md R100 to R105). -/

namespace Sys2Proof.Machine

/-- Whether reported width and height are swapped (10_state.md R11 (iv)). -/
def swapsDimensions : Rotation → Bool
  | .rot0 => false
  | .rot90 => true
  | .rot180 => false
  | .rot270 => true

/-- R105 (a): the row length of the index formula. -/
def stride (r : Rotation) : Nat := if swapsDimensions r then HEIGHT else WIDTH

/-- R103, R105 (b): the logical dimensions, which are also the bounds of `set_pixel`. -/
def logicalDims (r : Rotation) : Nat × Nat := if swapsDimensions r then (HEIGHT, WIDTH) else (WIDTH, HEIGHT)

/-- The remap Command of a rotation (R101): the row of `ROT_TABLE`, always `CM65k`. -/
def remapCommand (cfg : Config) (r : Rotation) : Instr :=
  .remapAndColorDepth (cfg.rotTable.row r).hMirror (cfg.rotTable.row r).vMirror .cm65k (cfg.rotTable.row r).inc

/-- `ROT <- r`. -/
def storeRotation (r : Rotation) (s : State) : State :=
  { s with driver := s.driver.map fun d => { d with rot := r } }

/-- `rotation()` (R102). -/
def opRotation (s : State) : Host.Outcome State Fault Refusal :=
  match s.driver with
  | none => .refused .noDriver
  | some d => .next (answerHost (.rotationIs d.rot) s)

/-- `dimensions()` (R103). -/
def opDimensions (s : State) : Host.Outcome State Fault Refusal :=
  match s.driver with
  | none => .refused .noDriver
  | some d => .next (answerHost (.dims (logicalDims d.rot).1 (logicalDims d.rot).2) s)

end Sys2Proof.Machine
end

