-- ==== Sys2Proof/Machine/Framebuffer.lean ====
section
/-! DEFINITION. The Framebuffer: the index function, the bounds, `set_pixel` and `clear` (42_framebuffer.md R110 to R113). -/

namespace Sys2Proof.Machine

/-- R110, in natural numbers. -/
def pixIndex (r : Rotation) (x y : Nat) : Nat := y * stride r + x

/-- R110: the index of the pixel's high byte. -/
def byteIndex (r : Rotation) (x y : Nat) : Nat := pixIndex r x y * 2

/-- R111; the third condition is kept although the first two imply it. -/
def inBounds (r : Rotation) (x y : Nat) : Bool :=
  decide (x < (logicalDims r).1) && decide (y < (logicalDims r).2) &&
    decide (byteIndex r x y + 1 ≤ FB_SIZE - 1)

/-- `c[15:8]`. -/
def colourHigh (c : Colour) : Byte := (c >>> 8).setWidth 8

/-- `c[7:0]`. -/
def colourLow (c : Colour) : Byte := c.setWidth 8

/-- A pixel in memory and on the bus: high byte first (20_memory.md R32). -/
def pixelBytes (c : Colour) : List Byte := [colourHigh c, colourLow c]

/-- A driver with another `FB`. -/
def storeFramebuffer (d : Driver) (m : Memory) (s : State) : State :=
  { s with driver := some { d with fb := m } }

/-- `set_pixel(x, y, colour16)` (R112): outside the bounds the write is dropped and nothing changes, which is no failure
(60_exceptions.md R147). -/
def opSetPixel (x y : Nat) (c : Colour) (s : State) : Host.Outcome State Fault Refusal :=
  match s.driver with
  | none => .refused .noDriver
  | some d =>
    if inBounds d.rot x y then
      match d.fb.write (byteIndex d.rot x y) (pixelBytes c) with
      | none => .fault .framebufferRange
      | some m => .next (answerHost .nothing (storeFramebuffer d m s))
    else .next (answerHost .nothing s)

/-- `clear()` (R113). -/
def opClear (s : State) : Host.Outcome State Fault Refusal :=
  match s.driver with
  | none => .refused .noDriver
  | some d => .next (answerHost .nothing (storeFramebuffer d Memory.zeroed s))

end Sys2Proof.Machine
end

