-- ==== Sys2Proof/Machine/Sequencer.lean ====
section
/-! DEFINITION. The fixed lists of micro-steps and how they are walked (43_init_sequencer.md R132), one micro-step a step. -/

namespace Sys2Proof.Machine

/-- The capability call of a micro-step. -/
inductive Call where
  /-- `DC.set(DC_COMMAND_LEVEL)`. -/
  | dcCommand
  /-- `BUS.write(CMDBUF[0 .. CMDLEN))`. -/
  | busCommand
  /-- `DC.set(data level)`. -/
  | dcData
  /-- `BUS.write(MemRead(0, FB_SIZE))`. -/
  | busData
  /-- `RST.set(level)`. -/
  | rstSet (level : Level)
  /-- `DELAY.ms(RESET_DELAY_MS)`. -/
  | delay
  deriving DecidableEq, Repr

/-- One micro-step: the stores that come before its call (of `ROT`, then of `CMDBUF`), and the call. -/
structure MicroStep where
  store : Option Rotation
  load : Option Instr
  call : Call
  deriving DecidableEq, Repr

/-- A micro-step without a store. -/
def MicroStep.of (c : Call) : MicroStep := ⟨none, none, c⟩

/-- `send(cmd)` inside an operation (40_command_codec.md R70). -/
def sendSteps (i : Instr) : List MicroStep := [⟨none, some i, .dcCommand⟩, .of .busCommand]

/-- `set_rotation(r)` (41_rotation_geometry.md R101): `ROT` is stored first, whatever the `send` then does. -/
def setRotationSteps (cfg : Config) (r : Rotation) : List MicroStep :=
  [⟨some r, some (remapCommand cfg r), .dcCommand⟩, .of .busCommand]

/-- The window of `set_draw_area` (42_framebuffer.md R114). -/
def windowSteps (sx sy ex ey : Byte) : List MicroStep :=
  sendSteps (.columnAddress sx ex) ++ sendSteps (.rowAddress sy ey)

/-- `flush()` (42_framebuffer.md R115): the full physical window under every rotation, the data level, all of `FB`. -/
def flushSteps : List MicroStep :=
  windowSteps 0#8 0#8 (BitVec.ofNat 8 (WIDTH - 1)) (BitVec.ofNat 8 (HEIGHT - 1)) ++ [.of .dcData, .of .busData]

/-- `reset(reset_line, delay)` (43_init_sequencer.md R126). -/
def resetSteps : List MicroStep :=
  [.of (.rstSet .high), .of .delay, .of (.rstSet .low), .of .delay, .of (.rstSet .high)]

/-- Steps 1 to 5 of `init()` (43_init_sequencer.md R127). -/
def initBefore (cfg : Config) : List Instr :=
  [.displayOn false, .displayClockDiv cfg.initClockOsc cfg.initClockDiv, .multiplex (BitVec.ofNat 8 (HEIGHT - 1)),
    .startLine 0#8, .displayOffset 0#8]

/-- Steps 7 to 12 of `init()` (43_init_sequencer.md R127). -/
def initAfter (cfg : Config) : List Instr :=
  [.contrast cfg.initContrastR cfg.initContrastG cfg.initContrastB,
    .preChargePeriod cfg.initPrechargeP1 cfg.initPrechargeP2, .vcomhDeselect cfg.initVcomhLevel, .allOn false,
    .invert false, .displayOn true]

/-- `init()` (43_init_sequencer.md R127); its step 6 is `set_rotation(ROT)`. -/
def initSteps (cfg : Config) (rot : Rotation) : List MicroStep :=
  (initBefore cfg).flatMap sendSteps ++ setRotationSteps cfg rot ++ (initAfter cfg).flatMap sendSteps

/-- The list of an operation. A bare `send` finds its Command already in `CMDBUF`. -/
def microSteps (cfg : Config) (rot : Rotation) : Operation → List MicroStep
  | .send => [.of .dcCommand, .of .busCommand]
  | .setRotation r => setRotationSteps cfg r
  | .setDrawArea sx sy ex ey => windowSteps sx sy ex ey
  | .flush => flushSteps
  | .flushCooperative => flushSteps
  | .reset _ _ => resetSteps
  | .init => initSteps cfg rot
  | .turnOn => sendSteps (.displayOn true)
  | .turnOff => sendSteps (.displayOn false)

/-- The stores of a micro-step. -/
def prepare (m : MicroStep) (s : State) : State :=
  let s1 := match m.store with
    | none => s
    | some r => storeRotation r s
  match m.load with
  | none => s1
  | some i => loadCommand (encode s1.cfg i) s1

/-- The call of a micro-step, and `seq <- seq + 1` if it answers `ok`. -/
def performCall (d : Driver) (c : Call) (s : State) : Tried :=
  match c with
  | .dcCommand => dcCommand s
  | .busCommand => busCommand s
  | .dcData => (dcSet s.cfg.dcDataLevel s).andThen fun t => .ok (advance t)
  | .busData => (busWrite d.fb.bytes s).andThen fun t => .ok (advance t)
  | .rstSet level => (rstSet level s).andThen fun t => .ok (advance t)
  | .delay => (delayMs s.cfg.resetDelayMs s).andThen fun t => .ok (advance t)

/-- When `seq` equals the length of the list the operation returns `ok` (43_init_sequencer.md R132). -/
def finish (s : State) : State :=
  match s.op, s.driver with
  | some r, some d => if (microSteps s.cfg d.rot r.op).length ≤ r.seq then endOperation .ok s else s
  | some _, none => s
  | none, _ => s

/-- Whether the next micro-step is the data write of a cooperative `flush`, not yet issued (42_framebuffer.md R116). -/
def suspendsBefore (r : Running) (m : MicroStep) : Bool :=
  decide (r.op = .flushCooperative) && decide (m.call = .busData) && !r.pending

/-- One micro-step of the operation in progress. A cooperative `flush` first enters the state "data write pending", which
only the transport's answer leaves. -/
def microStep (r : Running) (d : Driver) (m : MicroStep) (s : State) : Host.Outcome State Fault Refusal :=
  if suspendsBefore r m then .next { s with op := some { r with pending := true } }
  else (performCall d m.call (prepare m s)).outcome finish

/-- An operation with micro-steps starts at `seq = 0`; the host has no answer until it ends (10_state.md R14, R19). -/
def startOperation (op : Operation) (s : State) : Host.Outcome State Fault Refusal :=
  match s.driver with
  | none => .refused .noDriver
  | some _ => .next { s with op := some { op := op, seq := 0, pending := false }, reply := none }

/-! ## Several instances (10_state.md R24; log entry 10) -/

/-- The instance addressed, if there is one, is left as it stands: idle, or waiting for the answer of its data write. -/
def setAside (s : State) : State :=
  match s.driver with
  | none => s
  | some d => { s with
      driver := none
      op := none
      others := { driver := d, suspended := s.op.isSome, trace := s.trace } :: s.others }

/-- Whether an instance is the one that holds this transport. -/
def Instance.holds (transport : Handle) (i : Instance) : Bool := i.driver.bus == transport

/-- Where a suspended instance goes on: at the answer of its data write. -/
def suspendedFlush : Running := { op := .flushCooperative, seq := 5, pending := true }

/-- An instance is taken up as it was left. -/
def takeUp (i : Instance) (s : State) : State :=
  { s with
    driver := some i.driver
    op := if i.suspended then some suspendedFlush else none
    trace := i.trace
    others := s.others.eraseP (Instance.holds i.driver.bus) }

/-- The host turns to another instance, named by the transport it holds: no call is made and no instance changes. -/
def opTurnTo (transport : Handle) (s : State) : Host.Outcome State Fault Refusal :=
  match (setAside s).others.find? (Instance.holds transport) with
  | none => .refused .noDriver
  | some i => .next (takeUp i (setAside s))

/-- Whether a living instance holds this control line (60_exceptions.md R148). -/
def lineInUse (line : Handle) (is : List Instance) : Bool := is.any fun i => i.driver.dc == line

/-- Whether a living instance holds this transport or this control line (60_exceptions.md R148). -/
def handleInUse (transport controlLine : Handle) (is : List Instance) : Bool :=
  is.any (Instance.holds transport) || lineInUse controlLine is

/-- `new(transport, control_line, rotation)` (43_init_sequencer.md R125, 10_state.md R23): it needs a transport and a control
line of its own (R24), and leaves every other instance as it is. -/
def opNew (transport controlLine : Handle) (r : Rotation) (s : State) : Host.Outcome State Fault Refusal :=
  if handleInUse transport controlLine (setAside s).others then .refused .handleInUse
  else
    .next (answerHost .driver
      { setAside s with
        driver := some { rot := r, fb := Memory.zeroed, bus := transport, dc := controlLine }
        trace := [] })

/-- `release()` (43_init_sequencer.md R131): the handles go back, `ROT` and `FB` are gone (10_state.md R24). -/
def opRelease (s : State) : Host.Outcome State Fault Refusal :=
  match s.driver with
  | none => .refused .noDriver
  | some d => .next (answerHost (.handles d.bus d.dc) { s with driver := none })

/-- `reset(reset_line, delay)` (R126): the two handles are lent for this operation. A line that a living instance holds as its
data/command line, this one or another, is not the host's to lend: the instance holds it exclusively (60_exceptions.md R148;
log entry 26). -/
def opReset (resetLine delay : Handle) (s : State) : Host.Outcome State Fault Refusal :=
  if s.driver.isSome && lineInUse resetLine (setAside s).others then .refused .handleInUse
  else startOperation (.reset resetLine delay) s
/-- `init()` (R127). -/
def opInit (s : State) : Host.Outcome State Fault Refusal := startOperation .init s
/-- `turn_on()` (R129). -/
def opTurnOn (s : State) : Host.Outcome State Fault Refusal := startOperation .turnOn s
/-- `turn_off()` (R130). -/
def opTurnOff (s : State) : Host.Outcome State Fault Refusal := startOperation .turnOff s
/-- `flush()` (42_framebuffer.md R115). -/
def opFlush (s : State) : Host.Outcome State Fault Refusal := startOperation .flush s
/-- The cooperative variant of `flush` (42_framebuffer.md R116). -/
def opFlushCooperative (s : State) : Host.Outcome State Fault Refusal := startOperation .flushCooperative s
/-- `set_draw_area(start, end)` (42_framebuffer.md R114). -/
def opSetDrawArea (sx sy ex ey : Byte) (s : State) : Host.Outcome State Fault Refusal :=
  startOperation (.setDrawArea sx sy ex ey) s
/-- `set_rotation(r)` (41_rotation_geometry.md R101). -/
def opSetRotation (r : Rotation) (s : State) : Host.Outcome State Fault Refusal := startOperation (.setRotation r) s

/-- The host's request is taken up (10_state.md R19). -/
def issue (q : Request) (s : State) : Host.Outcome State Fault Refusal :=
  match q with
  | .new t dc r => opNew t dc r s
  | .reset rst delay => opReset rst delay s
  | .init => opInit s
  | .clear => opClear s
  | .setPixel x y c => opSetPixel x y c s
  | .flush => opFlush s
  | .flushCooperative => opFlushCooperative s
  | .setDrawArea sx sy ex ey => opSetDrawArea sx sy ex ey s
  | .dimensions => opDimensions s
  | .setRotation r => opSetRotation r s
  | .rotation => opRotation s
  | .turnOn => opTurnOn s
  | .turnOff => opTurnOff s
  | .release => opRelease s
  | .turnTo t => opTurnTo t s

end Sys2Proof.Machine
end

