-- ==== Sys2Proof/WellFormed.lean ====
section
/-! DEFINITION. Well-formedness: of a configuration record (00_scope.md R6, 30_encoding.md R58, 41_rotation_geometry.md R100), of a
Command (operands that fit their encoded fields) and of a request (operands of the stated width, 30_encoding.md R60). The
block itself checks none of these on a Command: every Command runs, masked where its rule masks (40_command_codec.md R86). -/

namespace Sys2Proof

/-- R58: the eighteen first bytes are pairwise distinct. -/
def Config.distinctFirstBytes (cfg : Config) : Bool := decide ((Opcode.all.map (firstByte cfg)).Nodup)

/-- R100: `Horizontal` for `Rot0` and `Rot180`, `Vertical` for `Rot90` and `Rot270`. -/
def RotTable.wf (t : RotTable) : Bool :=
  t.rot0.inc == .horizontal && t.rot90.inc == .vertical && t.rot180.inc == .horizontal && t.rot270.inc == .vertical

/-- The conditions of R6 and R100. DEDUCED (log entry 13): the output array holds the longest Command. -/
def Config.wf (cfg : Config) : Bool :=
  cfg.distinctFirstBytes && cfg.incVerticalCode == 1#1 && decide (1 ≤ cfg.resetDelayMs) &&
    decide (cfg.resetDelayMs ≤ 10) && cfg.rotTable.wf && decide (MAX_WIRE_LEN ≤ cfg.cmdArraySize)

/-- A four-bit operand (40_command_codec.md R75, R76; 70_reset_and_hazards.md R169). -/
def isNibble (b : Byte) : Bool := decide (b.toNat ≤ 15)

/-- A VCOMH level code, 0 to 31 (40_command_codec.md R83). -/
def isLevelCode (b : Byte) : Bool := decide (b.toNat ≤ 31)

/-- Every operand fits the field its rule encodes it in, so that the encoding drops no bit. -/
def Instr.wf : Instr → Bool
  | .contrast _ _ _ => true
  | .columnAddress _ _ => true
  | .rowAddress _ _ => true
  | .remapAndColorDepth _ _ _ _ => true
  | .displayClockDiv osc div => isNibble osc && isNibble div
  | .preChargePeriod p1 p2 => isNibble p1 && isNibble p2
  | .drawLine _ _ _ _ _ => true
  | .drawRect _ _ _ _ _ _ => true
  | .displayOnTrue => true
  | .displayOnFalse => true
  | .multiplex _ => true
  | .startLine _ => true
  | .displayOffset _ => true
  | .vcomhDeselect level => isLevelCode level
  | .allOnTrue => true
  | .allOnFalse => true
  | .invertTrue => true
  | .invertFalse => true

/-- The Command with its operands masked as its rule masks them (R75, R76, R83): what its wire bytes say. -/
def Instr.masked : Instr → Instr
  | .displayClockDiv osc div => .displayClockDiv (osc &&& 0x0F#8) (div &&& 0x0F#8)
  | .preChargePeriod p1 p2 => .preChargePeriod (p1 &&& 0x0F#8) (p2 &&& 0x0F#8)
  | .vcomhDeselect level => .vcomhDeselect (level &&& 0x1F#8)
  | .contrast r g b => .contrast r g b
  | .columnAddress a b => .columnAddress a b
  | .rowAddress a b => .rowAddress a b
  | .remapAndColorDepth h v m i => .remapAndColorDepth h v m i
  | .drawLine c1 r1 c2 r2 c => .drawLine c1 r1 c2 r2 c
  | .drawRect c1 r1 c2 r2 o f => .drawRect c1 r1 c2 r2 o f
  | .displayOnTrue => .displayOnTrue
  | .displayOnFalse => .displayOnFalse
  | .multiplex a => .multiplex a
  | .startLine a => .startLine a
  | .displayOffset a => .displayOffset a
  | .allOnTrue => .allOnTrue
  | .allOnFalse => .allOnFalse
  | .invertTrue => .invertTrue
  | .invertFalse => .invertFalse

/-- R60: `x` and `y` are `COORD_BITS`-bit unsigned; every other operand's type states its width. -/
def Machine.Request.wf (cfg : Config) : Machine.Request → Bool
  | .setPixel x y _ => decide (x < 2 ^ cfg.coordBits) && decide (y < 2 ^ cfg.coordBits)
  | .new _ _ _ => true
  | .reset _ _ => true
  | .init => true
  | .clear => true
  | .flush => true
  | .flushCooperative => true
  | .setDrawArea _ _ _ _ => true
  | .dimensions => true
  | .setRotation _ => true
  | .rotation => true
  | .turnOn => true
  | .turnOff => true
  | .release => true
  | .turnTo _ => true

end Sys2Proof
end

