-- ==== Sys2Proof/Machine/Control.lean ====
section
/-! DEFINITION. What one step does: the bare `send` of a Command through `exec`, one micro-step of an operation, or the next
request of the host (60_exceptions.md R155, 10_state.md R25). -/

namespace Sys2Proof.Machine

/-- The Command that stands in `CMDBUF`. -/
def fetchCommand (s : State) : Option Instr :=
  match s.cmdbuf with
  | none => none
  | some b => (decode s.cfg b.wire).map Prod.fst

/-- What a step adds after an outcome: the operation ends when its list is done. -/
def finishOutcome : Host.Outcome State Fault Refusal → Host.Outcome State Fault Refusal
  | .next s => .next (finish s)
  | .fault f => .fault f
  | .refused r => .refused r

/-- A bare `send` at its start: the Command in `CMDBUF` is executed, both calls in one step (log entry 11). -/
def runCommand (s : State) : Host.Outcome State Fault Refusal :=
  match fetchCommand s with
  | none => .refused .invalidEncoding
  | some i => finishOutcome (exec i s)

/-- The host makes a request without waiting for the answer of the operation in progress (20_memory.md R41). -/
def overlapping (s : State) : Bool :=
  match s.requests with
  | [] => false
  | h :: _ => !h.waits

/-- The operation in progress goes on by one micro-step. -/
def walk (r : Running) (s : State) : Host.Outcome State Fault Refusal :=
  match s.driver with
  | none => .refused .noDriver
  | some d =>
    match (microSteps s.cfg d.rot r.op)[r.seq]? with
    | none => .next (endOperation .ok s)
    | some m => microStep r d m s

/-- A step between operations: the host's next request, or nothing at all if the host asks nothing
(70_reset_and_hazards.md R177: there is no background execution). -/
def nextRequest (s : State) : Host.Outcome State Fault Refusal :=
  match s.requests with
  | [] => .next s
  | h :: rest =>
    if h.request.wf s.cfg then issue h.request { s with requests := rest } else .refused .illTypedRequest

/-- The request is for another instance than the one addressed. -/
def forAnother : Request → Bool
  | .new _ _ _ => true
  | .turnTo _ => true
  | .reset _ _ => false
  | .init => false
  | .clear => false
  | .setPixel _ _ _ => false
  | .flush => false
  | .flushCooperative => false
  | .setDrawArea _ _ _ _ => false
  | .dimensions => false
  | .setRotation _ => false
  | .rotation => false
  | .turnOn => false
  | .turnOff => false
  | .release => false

/-- While the data write of a cooperative `flush` is pending, its caller does work that is not this instance's
(42_framebuffer.md R116): it goes to another one. -/
def leavesSuspended (r : Running) (s : State) : Bool :=
  match s.requests with
  | [] => false
  | h :: _ => r.pending && !h.waits && forAnother h.request

/-- A step while an operation is in progress. -/
def continueOperation (r : Running) (s : State) : Host.Outcome State Fault Refusal :=
  if r.op = .send ∧ r.seq = 0 then runCommand s
  else if leavesSuspended r s then nextRequest s
  else if overlapping s then .refused .overlappingRequest
  else walk r s

/-- The output array holding a table word: its bytes, and the length its first byte demands (30_encoding.md R57). -/
def fetchBuffer (cfg : Config) (nbits w : Nat) : CmdBuf where
  bytes := tableBytes nbits w ++ List.replicate (cfg.cmdArraySize - (tableBytes nbits w).length) 0#8
  len := ((tableBytes nbits w).head?.bind (wireLenOf cfg)).getD 0

end Sys2Proof.Machine
end

