-- ==== Sys2Proof/Machine/Step.lean ====
section
/-! DEFINITION. One step of the machine, and the placing of a Command where the next step finds it. -/

namespace Sys2Proof.Machine

/-- One step: while an operation is in progress, one micro-step of it (a bare `send` whole); else the next request. -/
def step (s : State) : Host.Outcome State Fault Refusal :=
  match s.op with
  | some r => continueOperation r s
  | none => nextRequest s

/-- A Command put where the codec finds it (log entry 11): the bytes of the table word in `CMDBUF`, a bare `send` at its
start. -/
def State.withFetchWord (s : State) (nbits w : Nat) : State :=
  { s with
    op := some { op := .send, seq := 0, pending := false }
    cmdbuf := some (fetchBuffer s.cfg nbits w) }

end Sys2Proof.Machine
end

