-- ==== Sys2Proof/Safety.lean ====
section
/-! DEFINITION. What claims about the block are stated in: what the event trace says (10_state.md R21), the full trace of each
operation, the kind of a failing call, and the invariant of a run. -/

namespace Sys2Proof.Machine

/-! ## Reading the trace -/

/-- The level `DC` was last driven to with `ok` (70_reset_and_hazards.md R172); none if it never was. An `RST.set` is of another
line: `reset` is never lent a control line that an instance holds (log entry 26). -/
def dcLevel (t : List Event) : Option Level :=
  t.foldl (fun l e => match e with
    | .dcSet v .ok => some v
    | _ => l) none

/-- What is known of the device's remap register from the calls of one instance (70_reset_and_hazards.md R166): the last remap
byte written with `ok`; nothing after a remap write that failed (60_exceptions.md R152), and nothing from the first `RST.set` of
a `reset` on, whatever its level and its answer. DESIGN CHOICE (log entry 27): the rule ends the agreement at "the next
`reset`" and does not say of a `reset` that fails whether the device forgets; a `reset` that fails at its first
`RST.set(high)`, or at its `RST.set(low)`, ends it here like one that succeeds. -/
def knownRemap (t : List Event) : Option Byte :=
  t.foldl (fun k e => match e with
    | .busWrite [op, c] .ok => if op = 0xA0#8 then some c else k
    | .busWrite [op, _] (.error _) => if op = 0xA0#8 then none else k
    | .rstSet _ _ => none
    | _ => k) none

/-- The byte sequences that may have reached the device by one call (60_exceptions.md R152, 93 U4): all the bytes of a write
that answered `ok`, any leading part of the bytes of one that failed, none by another call. -/
def mayDeliver (e : Event) (bs : List Byte) : Prop :=
  match e with
  | .busWrite bytes .ok => bs = bytes
  | .busWrite bytes (.error _) => bs <+: bytes
  | .dcSet _ _ => bs = []
  | .rstSet _ _ => bs = []
  | .delayMs _ => bs = []

/-- The payloads of the bus writes, in order. -/
def busPayloads (t : List Event) : List (List Byte) :=
  t.filterMap fun e => match e with
    | .busWrite bytes _ => some bytes
    | .dcSet _ _ => none
    | .rstSet _ _ => none
    | .delayMs _ => none

/-! ## The full trace of each operation, every call answering ok -/

/-- The trace of a `send` (40_command_codec.md R70). -/
def sendTrace (cfg : Config) (i : Instr) : List Event :=
  [.dcSet cfg.dcCommandLevel .ok, .busWrite (encode cfg i) .ok]

/-- The twelve Commands of `init()`, as the list of 43_init_sequencer.md R127 has them. -/
def initCommands (cfg : Config) (rot : Rotation) : List Instr :=
  [.displayOnFalse, .displayClockDiv cfg.initClockOsc cfg.initClockDiv, .multiplex 63#8, .startLine 0#8,
    .displayOffset 0#8, remapCommand cfg rot,
    .contrast cfg.initContrastR cfg.initContrastG cfg.initContrastB,
    .preChargePeriod cfg.initPrechargeP1 cfg.initPrechargeP2, .vcomhDeselect cfg.initVcomhLevel,
    .allOnFalse, .invertFalse, .displayOnTrue]

/-- The trace of `flush()` (42_framebuffer.md R115, 95_test_vectors.md T12 (e)). -/
def flushTrace (cfg : Config) (fb : Memory) : List Event :=
  sendTrace cfg (.columnAddress 0#8 95#8) ++ sendTrace cfg (.rowAddress 0#8 63#8) ++
    [.dcSet cfg.dcDataLevel .ok, .busWrite fb.bytes .ok]

/-- The trace of `reset()` (43_init_sequencer.md R126). -/
def resetTrace (cfg : Config) : List Event :=
  [.rstSet .high .ok, .delayMs cfg.resetDelayMs, .rstSet .low .ok, .delayMs cfg.resetDelayMs, .rstSet .high .ok]

/-- The trace of each operation of the driver surface that makes calls; a bare `send` has its Command in `CMDBUF`. -/
def operationTrace (cfg : Config) (d : Driver) : Operation → List Event
  | .send => []
  | .setRotation r => sendTrace cfg (remapCommand cfg r)
  | .setDrawArea sx sy ex ey => sendTrace cfg (.columnAddress sx ex) ++ sendTrace cfg (.rowAddress sy ey)
  | .flush => flushTrace cfg d.fb
  | .flushCooperative => flushTrace cfg d.fb
  | .reset _ _ => resetTrace cfg
  | .init => (initCommands cfg d.rot).flatMap (sendTrace cfg)
  | .turnOn => sendTrace cfg .displayOnTrue
  | .turnOff => sendTrace cfg .displayOnFalse

/-- `ROT` once the operation has started its list (41_rotation_geometry.md R101, R104). -/
def rotationAfter (op : Operation) (rot : Rotation) : Rotation :=
  match op with
  | .setRotation r => r
  | .send => rot
  | .setDrawArea _ _ _ _ => rot
  | .flush => rot
  | .flushCooperative => rot
  | .reset _ _ => rot
  | .init => rot
  | .turnOn => rot
  | .turnOff => rot

/-- The same call with an `error(e)` answer; a delay has no answer. -/
def Event.failing (e : ErrorValue) : Event → Event
  | .dcSet l _ => .dcSet l (.error e)
  | .rstSet l _ => .rstSet l (.error e)
  | .busWrite bs _ => .busWrite bs (.error e)
  | .delayMs n => .delayMs n

/-- Which failure a call raises on `error(e)` (60_exceptions.md R141); a delay cannot fail. -/
def Event.failureKind (e : ErrorValue) : Event → Option Failure
  | .dcSet _ _ => some (.pinFailure e)
  | .rstSet _ _ => some (.pinFailure e)
  | .busWrite _ _ => some (.commFailure e)
  | .delayMs _ => none

/-! ## Runs, and what a claim supposes of the environment (70_reset_and_hazards.md R178) -/

/-- `n` steps of the machine, stopping at a fault or a refusal. -/
def run (n : Nat) (s : State) : Host.Outcome State Fault Refusal := Host.Core.run Sys2Proof.core n s

/-- The next `n` calls of `BUS`, `DC` and `RST` answer `ok`. -/
def State.okFor (s : State) (n : Nat) : Prop := ∀ k, k < n → s.answers.get k = some .ok

/-- The next `n` delays return. -/
def State.returnsFor (s : State) (n : Nat) : Prop := ∀ k, k < n → s.delays.get k = true

/-- Whether a call has an answer: every call but a delay. -/
def Event.answered : Event → Bool
  | .dcSet _ _ => true
  | .rstSet _ _ => true
  | .busWrite _ _ => true
  | .delayMs _ => false

/-- How many calls of a trace take an answer. -/
def answersIn (t : List Event) : Nat := t.countP Event.answered

/-- How many calls of a trace are delays. -/
def delaysIn (t : List Event) : Nat := t.countP fun e => !e.answered

/-- How many steps bring an operation past its first `k` micro-steps: one each, and one more for the suspension of a
cooperative `flush` before its sixth (42_framebuffer.md R116). -/
def stepsFor (op : Operation) (k : Nat) : Nat := if op = .flushCooperative ∧ 5 < k then k + 1 else k

/-- The operation `op` of instance `d` is at its start and no other caller interferes. -/
structure Starting (s : State) (d : Driver) (op : Operation) : Prop where
  driver : s.driver = some d
  op : s.op = some { op := op, seq := 0, pending := false }
  exclusive : overlapping s = false

/-- The state a `send` of these bytes leaves when both calls answer `ok`: two events, two micro-steps more of the operation
in progress if there is one, no value in `CMDBUF`; everything else as it was. -/
def State.sent (s : State) (wire : List Byte) : State :=
  { s with
    op := s.op.map fun r => { r with seq := r.seq + 2 }
    cmdbuf := none
    answers := s.answers.skip 2
    trace := s.trace ++ [.dcSet s.cfg.dcCommandLevel .ok, .busWrite wire .ok] }

/-! ## Several instances (10_state.md R24) -/

/-- The living instances, the one addressed first. -/
def State.instances (s : State) : List Driver := s.driver.toList ++ s.others.map Instance.driver

/-- No living instance holds this transport or this control line. -/
def State.unheld (s : State) (transport controlLine : Handle) : Prop :=
  ∀ d, d ∈ s.instances → d.bus ≠ transport ∧ d.dc ≠ controlLine

/-- No living instance holds this control line. -/
def State.lineFree (s : State) (line : Handle) : Prop := ∀ d, d ∈ s.instances → d.dc ≠ line

/-! ## The invariant of a run -/

/-- `CMDBUF` before micro-step `k` of a list: the Command of the micro-step before if `k` is its `BUS.write`, else no value
(10_state.md R15). -/
def bufferBefore (cfg : Config) (steps : List MicroStep) (k : Nat) : Option CmdBuf :=
  if (steps[k]?).map MicroStep.call = some .busCommand then
    ((steps[k - 1]?).bind MicroStep.load).map fun i => CmdBuf.ofWire cfg.cmdArraySize (encode cfg i)
  else none

/-- What holds of an operation in progress between two steps. -/
structure Walking (s : State) (r : Running) (d : Driver) : Prop where
  /-- A bare `send` is seen only at its start, its bytes in `CMDBUF`. -/
  bare : r.op = .send → r.seq = 0 ∧ r.pending = false ∧ s.cmdbuf.isSome
  /-- `seq` is a position of the list (R14). -/
  position : r.op ≠ .send → r.seq < (microSteps s.cfg d.rot r.op).length
  /-- `CMDBUF` has a value exactly inside a `send` (R15). -/
  buffer : r.op ≠ .send → s.cmdbuf = bufferBefore s.cfg (microSteps s.cfg d.rot r.op) r.seq
  /-- Only a cooperative `flush` suspends, and only at its data write (42_framebuffer.md R116). -/
  suspended : r.pending = true → r.op = .flushCooperative ∧ r.seq = 5
  /-- The reset line that is driven is no instance's control line (60_exceptions.md R148, R172). -/
  lent : ∀ line delay, r.op = .reset line delay → s.lineFree line

/-- The invariant of every run: `FB` of every living instance in canonical form within its 12288 locations; each has its own
transport and control line (R24); no operation without an instance; no value in `CMDBUF` between operations (10_state.md R10);
and what holds inside an operation. -/
structure Inv (s : State) : Prop where
  memory : ∀ d, d ∈ s.instances → Memory.wf d.fb = true
  transports : (s.instances.map Driver.bus).Nodup
  lines : (s.instances.map Driver.dc).Nodup
  owned : s.op.isSome → s.driver.isSome
  idle : s.op = none → s.cmdbuf = none
  walking : ∀ r d, s.op = some r → s.driver = some d → Walking s r d

end Sys2Proof.Machine
end

