-- ==== Sys2Proof/Certificates/Slice0/Obligations.lean ====
section
/-! DEFINITION. What is claimed of the block, for the provers. Each docstring says which rule of spec/ a statement formalises,
or which log entry or decision of the spec (92_eei_decisions.md) it rests on. -/

open Sys2Proof Sys2Proof.Machine

/-! ## The codec: wire bytes of the Commands -/

/-- `Contrast(r, g, b)` (40_command_codec.md section 3): six bytes after the command level, whatever the operands. That they go
out in one write is the spec's decision (92 D8; log entry 23). -/
def Obligations.ContrastGoesOutAsItsSixBytes : Prop :=
  ∀ (s : State) (d : Driver) (r g b : Byte), s.driver = some d → s.okFor 2 →
    exec (.contrast r g b) s = .next (s.sent [0x81#8, r, 0x82#8, g, 0x83#8, b])

/-- R72, R73: three bytes, both operands raw, for every value of them. -/
def Obligations.WindowCommandsEncodeRawOperands : Prop :=
  ∀ (cfg : Config) (a b : Byte),
    ((CmdBuf.ofWire cfg.cmdArraySize (encode cfg (.columnAddress a b))).wire = [cfg.opcColumnAddress, a, b] ∧
      (CmdBuf.ofWire cfg.cmdArraySize (encode cfg (.columnAddress a b))).len = 3) ∧
    ((CmdBuf.ofWire cfg.cmdArraySize (encode cfg (.rowAddress a b))).wire = [cfg.opcRowAddress, a, b] ∧
      (CmdBuf.ofWire cfg.cmdArraySize (encode cfg (.rowAddress a b))).len = 3)

/-- R55: the remap byte bit by bit, as one number, and the sixteen values it can have when the two increment modes have
different codes. -/
def Obligations.RemapByteBitByBit : Prop :=
  ∀ (cfg : Config) (h v : Bool) (m : ColourMode) (inc : AddrIncMode),
    let cm := if m = .cm65k then cfg.cm65kCode.toNat else 1 - cfg.cm65kCode.toNat
    let ic := if inc = .horizontal then 0 else cfg.incVerticalCode.toNat
    ∃ c : Byte, encode cfg (.remapAndColorDepth h v m inc) = [0xA0#8, c] ∧
      c.getLsbD 7 = false ∧ c.getLsbD 6 = decide (cm = 1) ∧ c.getLsbD 5 = true ∧ c.getLsbD 4 = v ∧
      c.getLsbD 3 = false ∧ c.getLsbD 2 = false ∧ c.getLsbD 1 = h ∧ c.getLsbD 0 = decide (ic = 1) ∧
      c.toNat = 0x20 + 0x40 * cm + (if v then 0x10 else 0) + (if h then 2 else 0) + ic ∧
      c.toNat ∈ [0x20, 0x21, 0x22, 0x23, 0x30, 0x31, 0x32, 0x33, 0x60, 0x61, 0x62, 0x63, 0x70, 0x71, 0x72, 0x73]

/-- R74: two bytes, the second the value of the rule's formula. -/
def Obligations.RemapEncodesItsFormula : Prop :=
  ∀ (cfg : Config) (h v : Bool) (m : ColourMode) (inc : AddrIncMode),
    let cm : BitVec 1 := if m = .cm65k then cfg.cm65kCode else 1#1 - cfg.cm65kCode
    let ic : BitVec 1 := if inc = .horizontal then 0#1 else cfg.incVerticalCode
    let c : Byte := BitVec.ofNat 8 (0x20 ||| ((if v then 1 else 0) <<< 4) ||| ((if h then 1 else 0) <<< 1) |||
      (cm.toNat <<< 6) ||| ic.toNat)
    (CmdBuf.ofWire cfg.cmdArraySize (encode cfg (.remapAndColorDepth h v m inc))).wire = [0xA0#8, c] ∧
      (CmdBuf.ofWire cfg.cmdArraySize (encode cfg (.remapAndColorDepth h v m inc))).len = 2

/-- R75, R76: each operand loses its bits 7:4; the FIRST operand of the clock Command and the SECOND of the pre-charge Command
stand in the high nibble. -/
def Obligations.NibbleCommandsPackTheirOperands : Prop :=
  ∀ (cfg : Config) (a b : Byte),
    ((CmdBuf.ofWire cfg.cmdArraySize (encode cfg (.displayClockDiv a b))).wire =
        [cfg.opcClockDiv, BitVec.ofNat 8 (16 * (a.toNat % 16) + b.toNat % 16)] ∧
      (CmdBuf.ofWire cfg.cmdArraySize (encode cfg (.displayClockDiv a b))).len = 2) ∧
    ((CmdBuf.ofWire cfg.cmdArraySize (encode cfg (.preChargePeriod a b))).wire =
        [cfg.opcPrecharge, BitVec.ofNat 8 (16 * (b.toNat % 16) + a.toNat % 16)] ∧
      (CmdBuf.ofWire cfg.cmdArraySize (encode cfg (.preChargePeriod a b))).len = 2)

/-- T12 (a): the length that byte 0 demands is the number of wire bytes. It needs distinct first bytes, which is the spec's own
requirement (92 D1). -/
def Obligations.LengthFollowsFromTheFirstByte : Prop :=
  ∀ (cfg : Config) (i : Instr), cfg.wf = true →
    (encode cfg i).head?.bind (wireLenOf cfg) = some (encode cfg i).length ∧
      1 ≤ (encode cfg i).length ∧ (encode cfg i).length ≤ 11

/-- Decode and encode agree, for every Command whose operands fit their fields, whatever bytes follow. -/
def Obligations.DecodingAnEncodedCommandGivesItBack : Prop :=
  ∀ (cfg : Config) (i : Instr) (rest : List Byte), cfg.wf = true → i.wf = true →
    decode cfg (encode cfg i ++ rest) = some (i, rest)

/-- For every Command at all, decoding gives it back with its operands masked (R75, R76, R83). -/
def Obligations.DecodingMasksWhatTheEncodingDrops : Prop :=
  ∀ (cfg : Config) (i : Instr) (rest : List Byte), cfg.wf = true →
    decode cfg (encode cfg i ++ rest) = some (i.masked, rest) ∧ i.masked.wf = true ∧ (i.wf = true → i.masked = i)

/-- Every byte sequence the decoder accepts is the encoding of what it gives, followed by the rest: no bit is read wrongly and
each word has one meaning. For every record, well-formed or not. -/
def Obligations.EncodingADecodedCommandGivesItsBytesBack : Prop :=
  ∀ (cfg : Config) (bs rest : List Byte) (i : Instr), decode cfg bs = some (i, rest) →
    encode cfg i ++ rest = bs ∧ i.wf = true

/-- T12 (b): two Commands have the same wire bytes exactly when they agree after masking. -/
def Obligations.EncodingIsInjectiveUpToMasking : Prop :=
  ∀ (cfg : Config) (i j : Instr), cfg.wf = true → (encode cfg i = encode cfg j ↔ i.masked = j.masked)

/-- The verdict `invalid` (92 D32; log entry 14) is given exactly to the byte sequences that no encoding starts. -/
def Obligations.DecoderRejectsExactlyWhatNoEncodingStarts : Prop :=
  ∀ (cfg : Config) (bs : List Byte), cfg.wf = true →
    (decode cfg bs = none ↔ ∀ (i : Instr) (rest : List Byte), bs ≠ encode cfg i ++ rest)

/-- Words written out from the encodings of 30_encoding.md and opcode_table.json, under the default record (log entry 3). -/
def Obligations.TableWordsDecodeToTheirCommands : Prop :=
  decodeTableWord 48 0x819182508370 = some (.contrast 0x91#8 0x50#8 0x70#8) ∧
  decodeTableWord 24 0x150A1E = some (.columnAddress 10#8 30#8) ∧
  decodeTableWord 16 0xA071 = some (.remapAndColorDepth false true .cm256 .vertical) ∧
  decodeTableWord 16 0xB131 = some (.preChargePeriod 1#8 3#8) ∧
  decodeTableWord 64 0x210102030404113E = some (.drawLine 1#8 2#8 3#8 4#8 0x123F#16) ∧
  decodeTableWord 88 0x22010203043E000000003E = some (.drawRect 1#8 2#8 3#8 4#8 0xF800#16 0x001F#16) ∧
  decodeTableWord 88 0x22010203043F000000003E = none ∧
  decodeTableWord 16 0xA83F = some (.multiplex 63#8) ∧
  decodeTableWord 16 0xBE3E = some (.vcomhDeselect 31#8) ∧
  decodeTableWord 8 0xAF = some .displayOnTrue

/-! ## send: completion, results, frames -/

/-- Every one of the eighteen Commands completes: with an instance and two `ok` answers `exec` answers the next state of its
`send`. One write for each Command is the spec's decision (92 D8). -/
def Obligations.EveryCommandCompletes : Prop :=
  ∀ (i : Instr) (s : State) (d : Driver), s.driver = some d → s.okFor 2 →
    exec i s = .next (s.sent (encode s.cfg i))

/-- ColumnAddress, RowAddress, RemapAndColorDepth, DisplayClockDiv, PreChargePeriod complete with these bytes on the bus. -/
def Obligations.SourcedCommandsRunToTheirBytes : Prop :=
  ∀ (s : State) (d : Driver) (a b : Byte) (h v : Bool) (m : ColourMode) (inc : AddrIncMode),
    s.driver = some d → s.okFor 2 →
    exec (.columnAddress a b) s = .next (s.sent [s.cfg.opcColumnAddress, a, b]) ∧
    exec (.rowAddress a b) s = .next (s.sent [s.cfg.opcRowAddress, a, b]) ∧
    exec (.remapAndColorDepth h v m inc) s = .next (s.sent [0xA0#8, BitVec.ofNat 8
      (0x20 + 0x40 * (if m = .cm65k then s.cfg.cm65kCode.toNat else 1 - s.cfg.cm65kCode.toNat) +
        (if v then 0x10 else 0) + (if h then 2 else 0) + (if inc = .horizontal then 0 else s.cfg.incVerticalCode.toNat))]) ∧
    exec (.displayClockDiv a b) s =
      .next (s.sent [s.cfg.opcClockDiv, BitVec.ofNat 8 (16 * (a.toNat % 16) + b.toNat % 16)]) ∧
    exec (.preChargePeriod a b) s =
      .next (s.sent [s.cfg.opcPrecharge, BitVec.ofNat 8 (16 * (b.toNat % 16) + a.toNat % 16)])

/-- DrawLine and DrawRect complete with raw coordinates and three channel bytes for each colour. The layout is the spec's
decision (92 D13). -/
def Obligations.DrawCommandsRunToTheirBytes : Prop :=
  ∀ (s : State) (d : Driver) (c1 r1 c2 r2 : Byte) (colour fill : Colour), s.driver = some d → s.okFor 2 →
    exec (.drawLine c1 r1 c2 r2 colour) s = .next (s.sent [s.cfg.opcDrawLine, c1, r1, c2, r2,
      BitVec.ofNat 8 (2 * (colour.toNat / 2048)), BitVec.ofNat 8 (colour.toNat / 32 % 64),
      BitVec.ofNat 8 (2 * (colour.toNat % 32))]) ∧
    exec (.drawRect c1 r1 c2 r2 colour fill) s = .next (s.sent [s.cfg.opcDrawRect, c1, r1, c2, r2,
      BitVec.ofNat 8 (2 * (colour.toNat / 2048)), BitVec.ofNat 8 (colour.toNat / 32 % 64),
      BitVec.ofNat 8 (2 * (colour.toNat % 32)),
      BitVec.ofNat 8 (2 * (fill.toNat / 2048)), BitVec.ofNat 8 (fill.toNat / 32 % 64),
      BitVec.ofNat 8 (2 * (fill.toNat % 32))])

/-- Multiplex, StartLine, DisplayOffset complete with a raw operand (92 D10), VcomhDeselect with its level at bits 5:1
(92 D11). -/
def Obligations.SetupCommandsRunToTheirBytes : Prop :=
  ∀ (s : State) (d : Driver) (a : Byte), s.driver = some d → s.okFor 2 →
    exec (.multiplex a) s = .next (s.sent [s.cfg.opcMultiplex, a]) ∧
    exec (.startLine a) s = .next (s.sent [s.cfg.opcStartLine, a]) ∧
    exec (.displayOffset a) s = .next (s.sent [s.cfg.opcDisplayOffset, a]) ∧
    exec (.vcomhDeselect a) s = .next (s.sent [s.cfg.opcVcomh, BitVec.ofNat 8 (2 * (a.toNat % 32))])

/-- The six one-byte Commands complete with the byte their Boolean selects (92 D12). -/
def Obligations.BooleanCommandsRunToTheirByte : Prop :=
  ∀ (s : State) (d : Driver), s.driver = some d → s.okFor 2 →
    exec .displayOnTrue s = .next (s.sent [s.cfg.opcDisplayOn]) ∧
    exec .displayOnFalse s = .next (s.sent [s.cfg.opcDisplayOff]) ∧
    exec .allOnTrue s = .next (s.sent [s.cfg.opcAllOnTrue]) ∧
    exec .allOnFalse s = .next (s.sent [s.cfg.opcAllOnFalse]) ∧
    exec .invertTrue s = .next (s.sent [s.cfg.opcInvertTrue]) ∧
    exec .invertFalse s = .next (s.sent [s.cfg.opcInvertFalse])

/-- R143, the part inside a `send`: when the line fails the host sees `PinFailure` and the write is never attempted, whatever
the write would have answered. -/
def Obligations.LineFailureKeepsACommandOffTheBus : Prop :=
  ∀ (i : Instr) (s : State) (d : Driver) (e : ErrorValue), s.driver = some d → s.answers.get 0 = some (.error e) →
    exec i s = .next { s with
      op := none
      cmdbuf := none
      answers := s.answers.skip 1
      trace := s.trace ++ [.dcSet s.cfg.dcCommandLevel (.error e)]
      reply := some (.failure (.pinFailure e)) }

/-- A write that fails: `CommFailure` with the transport's value, the line stays where it was driven, no retry. -/
def Obligations.WriteFailureEndsACommand : Prop :=
  ∀ (i : Instr) (s : State) (d : Driver) (e : ErrorValue), s.driver = some d → s.answers.get 0 = some .ok →
    s.answers.get 1 = some (.error e) →
    exec i s = .next { s with
      op := none
      cmdbuf := none
      answers := s.answers.skip 2
      trace := s.trace ++ [.dcSet s.cfg.dcCommandLevel .ok, .busWrite (encode s.cfg i) (.error e)]
      reply := some (.failure (.commFailure e)) }

/-- When a Command has no next state: no instance (92 D26, log entry 8), or a call that never answers (log entry 7); each
exactly then, and nothing else stops it. -/
def Obligations.CommandStopsOnlyForWantOfInstanceOrAnswer : Prop :=
  ∀ (i : Instr) (s : State),
    (exec i s = .refused .noDriver ↔ s.driver = none) ∧
    (exec i s = .fault .capabilityNeverAnswers ↔ s.driver ≠ none ∧
      (s.answers.get 0 = none ∨ (s.answers.get 0 = some .ok ∧ s.answers.get 1 = none))) ∧
    (∀ q, exec i s = .refused q → q = .noDriver) ∧
    (∀ f, exec i s = .fault f → f = .capabilityNeverAnswers)

/-- The frame of all eighteen Commands, on every path to a next state: the record, `ROT`, the handles, every byte of `FB`,
every other instance, the host's script and the delays stay; the trace only grows; `CMDBUF` has no value after it. -/
def Obligations.EveryCommandLeavesTheBlockAlone : Prop :=
  ∀ (i : Instr) (s t : State), exec i s = .next t →
    t.cfg = s.cfg ∧ t.driver = s.driver ∧ t.others = s.others ∧ t.requests = s.requests ∧ t.delays = s.delays ∧ t.cmdbuf = none ∧
      s.trace <+: t.trace ∧
      ∀ d d', s.driver = some d → t.driver = some d' → d'.rot = d.rot ∧ ∀ a, Memory.read d'.fb a = Memory.read d.fb a

/-! ## A step -/

/-- A step with a bare `send` at its start runs the decoded Command, and adds to it only the end of the operation. -/
def Obligations.StepRunsTheDecodedCommand : Prop :=
  ∀ (s : State) (b : CmdBuf) (i : Instr) (rest : List Byte) (p : Bool),
    s.op = some { op := .send, seq := 0, pending := p } → s.cmdbuf = some b → decode s.cfg b.wire = some (i, rest) →
    step s = match exec i s with
      | .next t => .next (finish t)
      | .fault f => .fault f
      | .refused q => .refused q

/-- A table word that decodes is what the next step runs, whatever state it is placed in: under the default record, whose
output array takes the table's eleven bytes. -/
def Obligations.PlacedTableWordRunsNext : Prop :=
  ∀ (s : State) (nbits w : Nat) (i : Instr), s.cfg = Config.default → decodeTableWord nbits w = some i →
    step (s.withFetchWord nbits w) = finishOutcome (exec i (s.withFetchWord nbits w))

/-- The two micro-steps of a Command inside an operation do what `exec` of the Command does: two steps equal one `exec`, for
every answer of the environment, when the host's script is empty. -/
def Obligations.TwoMicroStepsOfACommandAreItsExec : Prop :=
  ∀ (s : State) (d : Driver) (r : Running) (i : Instr),
    s.driver = some d → s.op = some r → s.requests = [] → r.op ≠ .send →
    (microSteps s.cfg d.rot r.op)[r.seq]? = some ⟨none, some i, .dcCommand⟩ →
    (microSteps s.cfg d.rot r.op)[r.seq + 1]? = some ⟨none, none, .busCommand⟩ →
    run 2 s = finishOutcome (exec i s)

/-- An operation whose calls all answer makes its whole list, in order, and returns `ok`; `ROT` is the argument of
`set_rotation` and else as it was; `FB`, the handles, the record and the host's script stay. What each list holds rests in part
on decisions of the spec (92 D7, D8, D14 to D17, D23, D30, D31). -/
def Obligations.OperationMakesItsWholeListAndReturnsOk : Prop :=
  ∀ (s : State) (d : Driver) (op : Operation), Starting s d op → op ≠ .send →
    s.okFor (answersIn (operationTrace s.cfg d op)) → s.returnsFor (delaysIn (operationTrace s.cfg d op)) →
    run (stepsFor op (operationTrace s.cfg d op).length) s = .next { s with
      driver := some { d with rot := rotationAfter op d.rot }
      op := none
      cmdbuf := none
      answers := s.answers.skip (answersIn (operationTrace s.cfg d op))
      delays := s.delays.skip (delaysIn (operationTrace s.cfg d op))
      trace := s.trace ++ operationTrace s.cfg d op
      reply := some .ok }

/-- 60_exceptions.md section 3: an `error(e)` answer at micro-step `k`, the calls before it answered: no later micro-step is
made, the host gets the failure kind of that call (R141), nothing is saved, `FB` stays, `ROT` changes only if the operation was
`set_rotation(r)`, and the trace holds micro-steps 0 to `k - 1` with `ok` and micro-step `k` with `error(e)` (T12 (h)). That `ROT` is `r` after a failed
`set_rotation(r)` is the spec's decision (92 D19; log entry 23), and so are parts of the lists. -/
def Obligations.FailingMicroStepEndsItsOperation : Prop :=
  ∀ (s : State) (d : Driver) (op : Operation) (k : Nat) (ev : Event) (e : ErrorValue) (f : Failure),
    Starting s d op → op ≠ .send →
    (operationTrace s.cfg d op)[k]? = some ev → ev.failureKind e = some f →
    s.okFor (answersIn ((operationTrace s.cfg d op).take k)) →
    s.returnsFor (delaysIn ((operationTrace s.cfg d op).take k)) →
    s.answers.get (answersIn ((operationTrace s.cfg d op).take k)) = some (.error e) →
    run (stepsFor op (k + 1)) s = .next { s with
      driver := some { d with rot := rotationAfter op d.rot }
      op := none
      cmdbuf := none
      answers := s.answers.skip (answersIn ((operationTrace s.cfg d op).take k) + 1)
      delays := s.delays.skip (delaysIn ((operationTrace s.cfg d op).take k))
      trace := s.trace ++ (operationTrace s.cfg d op).take k ++ [ev.failing e]
      reply := some (.failure f) }

/-- The cooperative `flush` is `flush` with one suspension (92 D23; log entry 16): for every answer of the environment the same
calls, the same state and the same result, when the host's script is empty. -/
def Obligations.CooperativeFlushIsFlushWithASuspension : Prop :=
  ∀ (s : State), s.requests = [] →
    run 7 { s with op := some { op := .flushCooperative, seq := 0, pending := false } } =
      run 6 { s with op := some { op := .flush, seq := 0, pending := false } }

/-! ## The operations, from the host's request to its answer -/

/-- The seven requests with capability calls, and the cooperative `flush`, are taken up at once by an instance that is idle:
`seq` is 0, nothing else changes, the host has no answer yet; `reset` with a line that no instance holds (60_exceptions.md R148). -/
def Obligations.RequestsWithCallsStartAtSeqZero : Prop :=
  ∀ (s : State) (d : Driver) (rest : List HostInput) (w : Bool) (q : Request) (op : Operation),
    s.driver = some d → s.op = none → s.requests = { request := q, waits := w } :: rest →
    (q, op) ∈ [(Request.init, Operation.init), (.flush, .flush), (.flushCooperative, .flushCooperative),
      (.turnOn, .turnOn), (.turnOff, .turnOff)] ∨
      (∃ r, q = .setRotation r ∧ op = .setRotation r) ∨ (∃ a b, q = .reset a b ∧ op = .reset a b ∧ s.lineFree a) ∨
      (∃ a b c e, q = .setDrawArea a b c e ∧ op = .setDrawArea a b c e) →
    step s = .next { s with
      op := some { op := op, seq := 0, pending := false }
      requests := rest
      reply := none }

/-- `init()` from the request to its answer: twelve Commands in the order of R127, for every rotation and record, 24 calls,
`ROT` and `FB` unchanged. The operands of four of them are parameters (92 D14), step 6 is D30. -/
def Obligations.InitSendsTheTwelveCommandsInOrder : Prop :=
  ∀ (s : State) (d : Driver) (rest : List HostInput) (w : Bool),
    s.driver = some d → s.op = none → s.requests = { request := .init, waits := w } :: rest →
    overlapping { s with requests := rest } = false → s.okFor 24 →
    ∃ t, run 25 s = .next t ∧ t.driver = some d ∧ t.op = none ∧ t.reply = some .ok ∧
      (∃ added, t.trace = s.trace ++ added ∧ busPayloads added = (initCommands s.cfg d.rot).map (encode s.cfg) ∧
        added.length = 24 ∧ ∀ k, k < 12 → added[2 * k]? = some (.dcSet s.cfg.dcCommandLevel .ok))

/-- `flush()` from the request to its answer: the full physical window under every rotation, then the data level, then all of
`FB` in one write (92 D7, D8), and nothing in the block changes. -/
def Obligations.FlushSendsTheWindowAndThenTheWholeBuffer : Prop :=
  ∀ (s : State) (d : Driver) (rest : List HostInput) (w : Bool),
    s.driver = some d → s.op = none → s.requests = { request := .flush, waits := w } :: rest →
    overlapping { s with requests := rest } = false → s.okFor 6 →
    run 7 s = .next { s with
      requests := rest
      cmdbuf := none
      answers := s.answers.skip 6
      trace := s.trace ++ [.dcSet s.cfg.dcCommandLevel .ok, .busWrite [s.cfg.opcColumnAddress, 0#8, 95#8] .ok,
        .dcSet s.cfg.dcCommandLevel .ok, .busWrite [s.cfg.opcRowAddress, 0#8, 63#8] .ok,
        .dcSet s.cfg.dcCommandLevel.opposite .ok, .busWrite d.fb.bytes .ok]
      reply := some .ok }

/-- `reset(reset_line, delay)` from the request to its answer: high, wait, low, wait, high (92 D15, D31), on a line that no
instance holds as its control line. -/
def Obligations.ResetMakesItsPulse : Prop :=
  ∀ (s : State) (d : Driver) (rest : List HostInput) (w : Bool) (rst delay : Handle),
    s.driver = some d → s.op = none → s.requests = { request := .reset rst delay, waits := w } :: rest → s.lineFree rst →
    overlapping { s with requests := rest } = false → s.okFor 3 → s.returnsFor 2 →
    run 6 s = .next { s with
      requests := rest
      cmdbuf := none
      answers := s.answers.skip 3
      delays := s.delays.skip 2
      trace := s.trace ++ [.rstSet .high .ok, .delayMs s.cfg.resetDelayMs, .rstSet .low .ok,
        .delayMs s.cfg.resetDelayMs, .rstSet .high .ok]
      reply := some .ok }

/-- A control line that a living instance holds, this one or another, is not lent as a reset line: the instance holds it
exclusively from `new` to `release` (60_exceptions.md R148), and nobody else drives it (70_reset_and_hazards.md R172, R178). The
model refuses such a `reset` (log entry 26), and with it no call is made; with any other line `reset` starts. -/
def Obligations.HeldControlLineIsNotLentAsResetLine : Prop :=
  ∀ (s : State) (d : Driver) (rest : List HostInput) (w : Bool) (rst delay : Handle),
    s.driver = some d → s.op = none → s.requests = { request := .reset rst delay, waits := w } :: rest →
    ((∃ e, e ∈ s.instances ∧ e.dc = rst) → step s = .refused .handleInUse) ∧
    ((∀ e, e ∈ s.instances → e.dc ≠ rst) → ∃ t, step s = .next t ∧
      t.op = some { op := .reset rst delay, seq := 0, pending := false } ∧ t.instances = s.instances ∧ t.trace = s.trace)

/-- `set_rotation(r)` from the request to its answer, from every old value, the same one included: `ROT` is `r` and the remap
byte of `r`'s row went out; `FB` and the handles stay. Stated also when the `send` fails at either call: `ROT` is `r` all the
same (92 D19). -/
def Obligations.SetRotationStoresAndThenSends : Prop :=
  ∀ (s : State) (d : Driver) (rest : List HostInput) (w : Bool) (r : Rotation),
    s.driver = some d → s.op = none → s.requests = { request := .setRotation r, waits := w } :: rest →
    overlapping { s with requests := rest } = false →
    (s.okFor 2 → ∃ t, run 3 s = .next t ∧ t.driver = some { d with rot := r } ∧ t.op = none ∧ t.reply = some .ok ∧
      t.trace = s.trace ++ [.dcSet s.cfg.dcCommandLevel .ok, .busWrite (encode s.cfg (.remapAndColorDepth
        (s.cfg.rotTable.row r).hMirror (s.cfg.rotTable.row r).vMirror .cm65k (s.cfg.rotTable.row r).inc)) .ok]) ∧
    (∀ e, s.answers.get 0 = some (.error e) → ∃ t, run 2 s = .next t ∧ t.driver = some { d with rot := r } ∧
      t.op = none ∧ t.reply = some (.failure (.pinFailure e)) ∧
      t.trace = s.trace ++ [.dcSet s.cfg.dcCommandLevel (.error e)]) ∧
    (∀ e, s.answers.get 0 = some .ok → s.answers.get 1 = some (.error e) → ∃ t, run 3 s = .next t ∧
      t.driver = some { d with rot := r } ∧ t.op = none ∧ t.reply = some (.failure (.commFailure e)))

/-- `set_draw_area` sends the two window Commands with the raw operands (92 D16), `turn_on` and `turn_off` one byte each
(92 D17); the block does not change. -/
def Obligations.WindowAndPowerOperationsSendTheirCommands : Prop :=
  ∀ (s : State) (d : Driver) (rest : List HostInput) (w : Bool), s.driver = some d → s.op = none →
    overlapping { s with requests := rest } = false →
    (∀ sx sy ex ey, s.requests = { request := .setDrawArea sx sy ex ey, waits := w } :: rest → s.okFor 4 →
      ∃ t, run 5 s = .next t ∧ t.driver = some d ∧ t.op = none ∧ t.reply = some .ok ∧
        t.trace = s.trace ++ [.dcSet s.cfg.dcCommandLevel .ok, .busWrite [s.cfg.opcColumnAddress, sx, ex] .ok,
          .dcSet s.cfg.dcCommandLevel .ok, .busWrite [s.cfg.opcRowAddress, sy, ey] .ok]) ∧
    (s.requests = { request := .turnOn, waits := w } :: rest → s.okFor 2 →
      ∃ t, run 3 s = .next t ∧ t.driver = some d ∧ t.op = none ∧ t.reply = some .ok ∧
        t.trace = s.trace ++ [.dcSet s.cfg.dcCommandLevel .ok, .busWrite [s.cfg.opcDisplayOn] .ok]) ∧
    (s.requests = { request := .turnOff, waits := w } :: rest → s.okFor 2 →
      ∃ t, run 3 s = .next t ∧ t.driver = some d ∧ t.op = none ∧ t.reply = some .ok ∧
        t.trace = s.trace ++ [.dcSet s.cfg.dcCommandLevel .ok, .busWrite [s.cfg.opcDisplayOff] .ok])

/-- R102, R103: `rotation()` returns `ROT`, `dimensions()` the pair of its rotation; both write nothing and make no call. -/
def Obligations.RotationAndDimensionsReport : Prop :=
  ∀ (s : State) (d : Driver) (rest : List HostInput) (w : Bool), s.driver = some d → s.op = none →
    (s.requests = { request := .rotation, waits := w } :: rest →
      step s = .next { s with requests := rest, reply := some (.rotationIs d.rot) }) ∧
    (s.requests = { request := .dimensions, waits := w } :: rest →
      step s = .next { s with
        requests := rest
        reply := some (if d.rot = .rot0 ∨ d.rot = .rot180 then .dims 96 64 else .dims 64 96) })

/-- R110, R111: inside the bounds the index function is one to one, and its values are exactly the even indices 0 to 12286,
under every rotation; the index condition follows from the other two. -/
def Obligations.PixelIndexChartsTheWholeBuffer : Prop :=
  ∀ r : Rotation,
    (∀ x y, inBounds r x y = true ↔ (if r = .rot0 ∨ r = .rot180 then x < 96 ∧ y < 64 else x < 64 ∧ y < 96)) ∧
    (∀ x y, byteIndex r x y = (y * (if r = .rot0 ∨ r = .rot180 then 96 else 64) + x) * 2) ∧
    (∀ x y, inBounds r x y = true → byteIndex r x y + 1 ≤ 12287) ∧
    (∀ x y x' y', inBounds r x y = true → inBounds r x' y' = true → byteIndex r x y = byteIndex r x' y' →
      x = x' ∧ y = y') ∧
    (∀ k, k < 6144 → ∃ x y, inBounds r x y = true ∧ byteIndex r x y = 2 * k)

/-- R112: an in-bounds pixel is stored as two bytes, the high byte first, at the index of the current rotation; every other
byte of `FB` reads as before, `ROT` and the handles stay, no call is made. -/
def Obligations.SetPixelStoresTwoBytesAtItsIndex : Prop :=
  ∀ (s : State) (d : Driver) (rest : List HostInput) (w : Bool) (x y : Nat) (c : Colour),
    s.driver = some d → Memory.wf d.fb = true → s.op = none →
    s.requests = { request := .setPixel x y c, waits := w } :: rest →
    x < 2 ^ s.cfg.coordBits → y < 2 ^ s.cfg.coordBits →
    x < (if d.rot = .rot0 ∨ d.rot = .rot180 then 96 else 64) →
    y < (if d.rot = .rot0 ∨ d.rot = .rot180 then 64 else 96) →
    ∃ m, step s = .next { s with
        driver := some { d with fb := m }
        requests := rest
        reply := some .nothing } ∧
      Memory.wf m = true ∧
      (Memory.read m (byteIndex d.rot x y)).toNat = c.toNat / 256 ∧
      (Memory.read m (byteIndex d.rot x y + 1)).toNat = c.toNat % 256 ∧
      ∀ a, a ≠ byteIndex d.rot x y → a ≠ byteIndex d.rot x y + 1 → Memory.read m a = Memory.read d.fb a

/-- Outside the bounds the write is dropped: no failure, no event, every byte of `FB` and all else as before. The bounds are the
spec's decision (92 D20; log entry 23), and so is the width of the coordinates (92 D9; log entry 20). -/
def Obligations.OutOfBoundsPixelIsSilentlyDropped : Prop :=
  ∀ (s : State) (d : Driver) (rest : List HostInput) (w : Bool) (x y : Nat) (c : Colour),
    s.driver = some d → s.op = none → s.requests = { request := .setPixel x y c, waits := w } :: rest →
    x < 2 ^ s.cfg.coordBits → y < 2 ^ s.cfg.coordBits →
    ((if d.rot = .rot0 ∨ d.rot = .rot180 then 96 else 64) ≤ x ∨
      (if d.rot = .rot0 ∨ d.rot = .rot180 then 64 else 96) ≤ y) →
    step s = .next { s with requests := rest, reply := some .nothing }

/-- R113: `clear()` zero-fills `FB`, leaves `ROT` and the handles, makes no call. -/
def Obligations.ClearZeroFillsTheBuffer : Prop :=
  ∀ (s : State) (d : Driver) (rest : List HostInput) (w : Bool), s.driver = some d → s.op = none →
    s.requests = { request := .clear, waits := w } :: rest →
    ∃ m, step s = .next { s with
        driver := some { d with fb := m }
        requests := rest
        reply := some .nothing } ∧ Memory.wf m = true ∧ ∀ a, Memory.read m a = 0x00#8

/-- `new` gives the values of the table of 10_state.md section 7 and makes no call (92 D18): `ROT` the argument, `FB` zero, the
handles the arguments, an empty trace; an instance that was addressed before lives on as it was, and so does every other. With a
handle that a living instance holds there is no such instance (R24), and the model refuses (log entry 10). -/
def Obligations.NewMakesTheInstance : Prop :=
  ∀ (s : State) (rest : List HostInput) (w : Bool) (t dc : Handle) (r : Rotation), s.op = none →
    s.requests = { request := .new t dc r, waits := w } :: rest →
    (s.unheld t dc → ∃ d, step s = .next { s with
        driver := some d
        others := (s.driver.map fun e => Instance.mk e false s.trace).toList ++ s.others
        requests := rest
        trace := []
        reply := some .driver } ∧
      d.rot = r ∧ d.bus = t ∧ d.dc = dc ∧ Memory.wf d.fb = true ∧ ∀ a, Memory.read d.fb a = 0x00#8) ∧
    (¬ s.unheld t dc → step s = .refused .handleInUse)

/-- Turning to another instance and back changes nothing but the order of the others, whether the one left is idle or waits for
the answer of its data write; each is found as it was left (R24; log entry 10). -/
def Obligations.TurningAwayAndBackChangesNothing : Prop :=
  ∀ (s : State) (d : Driver) (i : Instance) (rest : List HostInput), Inv s → s.driver = some d → i ∈ s.others →
    (s.op = none ∨ s.op = some suspendedFlush) →
    s.requests = { request := .turnTo i.driver.bus, waits := false } :: { request := .turnTo d.bus, waits := false } :: rest →
    (∃ u, step s = .next u ∧ u.driver = some i.driver ∧ u.trace = i.trace ∧ u.op.isSome = i.suspended) ∧
    ∃ os, run 2 s = .next { s with others := os, requests := rest } ∧ os.Perm s.others

/-- `release()` gives the handles back and ends the instance; no call is made. Without an instance every request but
`new` and the turning to a living instance is refused (92 D26; log entry 8). -/
def Obligations.ReleaseEndsTheInstance : Prop :=
  (∀ (s : State) (d : Driver) (rest : List HostInput) (w : Bool), s.driver = some d → s.op = none →
    s.requests = { request := .release, waits := w } :: rest →
    step s = .next { s with driver := none, requests := rest, reply := some (.handles d.bus d.dc) }) ∧
  (∀ (s : State) (h : HostInput) (rest : List HostInput), s.driver = none → s.op = none → s.requests = h :: rest →
    h.request.wf s.cfg = true → (∀ t dc r, h.request ≠ .new t dc r) →
    (∀ a, h.request = .turnTo a → ∀ i, i ∈ s.others → i.driver.bus ≠ a) → step s = .refused .noDriver)

/-- Every well-typed request of an idle instance is taken up: the machine has a next state for it, with the host's script moved
on and no call made. A `new` needs handles nobody else holds, a `reset` a line that no instance holds, turning an instance to turn to
(R24, R148; log entries 10 and 26). -/
def Obligations.WellTypedRequestsAreTakenUp : Prop :=
  ∀ (s : State) (d : Driver) (h : HostInput) (rest : List HostInput), s.driver = some d → s.op = none →
    s.requests = h :: rest → h.request.wf s.cfg = true → (∀ a b r, h.request = .new a b r → s.unheld a b) →
    (∀ a b, h.request = .reset a b → s.lineFree a) →
    (∀ a, h.request = .turnTo a → ∃ e, e ∈ s.instances ∧ e.bus = a) →
    ∃ t, step s = .next t ∧ t.requests = rest ∧ t.cfg = s.cfg ∧ t.answers = s.answers ∧
      (forAnother h.request = false → t.trace = s.trace ∧ t.others = s.others)

/-- A pixel written and then flushed goes out in the data block, high byte at its index, low byte at the next: the source's
round trip for every in-bounds pixel, every colour, every rotation and every content of `FB` (92 D7). -/
def Obligations.PixelRoundTripThroughFlush : Prop :=
  ∀ (s : State) (d : Driver) (rest : List HostInput) (w v : Bool) (x y : Nat) (c : Colour),
    s.driver = some d → Memory.wf d.fb = true → s.op = none →
    s.requests = { request := .setPixel x y c, waits := w } :: { request := .flush, waits := v } :: rest →
    overlapping { s with requests := rest } = false →
    x < 2 ^ s.cfg.coordBits → y < 2 ^ s.cfg.coordBits → inBounds d.rot x y = true → s.okFor 6 →
    ∃ t block, run 8 s = .next t ∧ t.reply = some .ok ∧ t.trace.getLast? = some (.busWrite block .ok) ∧
      block.length = 12288 ∧
      (block[byteIndex d.rot x y]?).map BitVec.toNat = some (c.toNat / 256) ∧
      (block[byteIndex d.rot x y + 1]?).map BitVec.toNat = some (c.toNat % 256) ∧
      ∀ a, a < 12288 → a ≠ byteIndex d.rot x y → a ≠ byteIndex d.rot x y + 1 →
        block[a]? = some (Memory.read d.fb a)

/-! ## Rules of the whole machine -/

/-- The invariant is kept by every step, from every state that meets it. -/
def Obligations.InvariantIsKeptByEveryStep : Prop :=
  ∀ s t : State, Inv s → step s = .next t → Inv t

/-- The invariant holds right after `new`, whatever its arguments and the record, at reset, and after a Command is placed. -/
def Obligations.InvariantHoldsAfterNew : Prop :=
  (∀ (cfg : Config) (t dc : Handle) (r : Rotation), Inv (State.afterNew cfg t dc r)) ∧ Inv State.reset ∧
    ∀ (s : State) (d : Driver) (nbits w : Nat), Inv s → s.driver = some d → Inv (s.withFetchWord nbits w)

/-- In a state of a run the block never stops by itself: the only fault is a capability that never answers (log entry 7), which
is the environment's doing. -/
def Obligations.OnlyTheEnvironmentCanHangTheBlock : Prop :=
  ∀ (s : State) (f : Fault), Inv s → step s = .fault f →
    f = .capabilityNeverAnswers ∧ s.op.isSome ∧ (s.answers.head = none ∨ s.answers.tail.head = none ∨ s.delays.head = false)

/-- When a step refuses, and that it refuses nothing else. A missing instance (92 D26; log entry 8) and an overlapping request
(93 U6; log entry 9) are the spec's refusals; a handle in use, operands too wide and bytes that are no Command are the model's
(log entries 10 and 26, 20, 14). -/
def Obligations.EveryRefusalHasItsCause : Prop :=
  ∀ (s : State) (q : Refusal), step s = .refused q →
    (q = .noDriver ∧ (s.driver = none ∨
      ∃ h a, s.requests.head? = some h ∧ h.request = .turnTo a ∧ ∀ d, d ∈ s.instances → d.bus ≠ a)) ∨
    (q = .handleInUse ∧ ∃ h, s.requests.head? = some h ∧
      ((∃ a b r, h.request = .new a b r ∧ ¬ s.unheld a b) ∨
        ∃ a b, h.request = .reset a b ∧ s.driver.isSome ∧ ¬ s.lineFree a)) ∨
    (q = .overlappingRequest ∧ s.op.isSome ∧ ∃ h, s.requests.head? = some h ∧ h.waits = false) ∨
    (q = .illTypedRequest ∧ s.op = none ∧ ∃ h, s.requests.head? = some h ∧ h.request.wf s.cfg = false) ∨
    (q = .invalidEncoding ∧ (∃ r, s.op = some r ∧ r.op = .send) ∧ fetchCommand s = none)

/-- `ROT` of an instance, known by its transport, is written by `set_rotation` and nothing else while it lives (T12 (g)), and then
with its argument. -/
def Obligations.OnlySetRotationChangesTheRotation : Prop :=
  ∀ (s t : State) (d d' : Driver), step s = .next t → s.driver = some d → t.driver = some d' → d'.bus = d.bus →
    d'.rot ≠ d.rot →
    ∃ r, s.op = some r ∧ r.op = .setRotation d'.rot

/-- `FB` of an instance, known by its transport, is written by `set_pixel` and `clear` and nothing else while it lives
(T12 (g)); no failing operation writes it, and a change of rotation does not move a byte. -/
def Obligations.OnlyPixelsAndClearChangeTheBuffer : Prop :=
  ∀ (s t : State) (d d' : Driver) (a : Nat), Inv s → step s = .next t → s.driver = some d → t.driver = some d' →
    d'.bus = d.bus →
    Memory.read d'.fb a ≠ Memory.read d.fb a →
    s.op = none ∧ ∃ h, s.requests.head? = some h ∧
      (h.request = .clear ∨ ∃ x y c, h.request = .setPixel x y c ∧ inBounds d.rot x y = true ∧
        (a = byteIndex d.rot x y ∨ a = byteIndex d.rot x y + 1))

/-- No step changes the record. The instance addressed keeps its handles, and its trace only grows; or it is left as it stands,
for another one; or it is released. -/
def Obligations.StepKeepsRecordHandlesAndTrace : Prop :=
  ∀ s t : State, step s = .next t →
    t.cfg = s.cfg ∧
    ∀ d, s.driver = some d →
      (∃ d', t.driver = some d' ∧ d'.bus = d.bus ∧ d'.dc = d.dc ∧ s.trace <+: t.trace) ∨
      (Instance.mk d s.op.isSome s.trace ∈ t.others ∧
        ∃ h, s.requests.head? = some h ∧ forAnother h.request = true) ∨
      (t.driver = none ∧ t.others = s.others ∧ s.op = none ∧ ∃ h, s.requests.head? = some h ∧ h.request = .release)

/-- A step does nothing to the instances that are not addressed: each stays as it is, or is turned to and found as it was
(no shared mutable state; log entry 10). -/
def Obligations.StepLeavesOtherInstancesAlone : Prop :=
  ∀ (s t : State) (i : Instance), step s = .next t → i ∈ s.others →
    i ∈ t.others ∨
    (t.driver = some i.driver ∧ t.trace = i.trace ∧ t.op.isSome = i.suspended ∧
      ∃ h, s.requests.head? = some h ∧ h.request = .turnTo i.driver.bus)

/-- `seq` starts at 0, goes up by exactly one for each micro-step that answers `ok`, and never moves otherwise (10_state.md
section 4): what one step of an operation of the driver surface can do to it, no caller cutting in. The one step that makes no
call is the suspension of a cooperative `flush`, a state of its own by the spec's decision (92 D23; log entry 16). -/
def Obligations.SeqCountsMicroStepsOneByOne : Prop :=
  ∀ (s t : State) (r r' : Running), Inv s → overlapping s = false → step s = .next t → s.op = some r → t.op = some r' →
    r'.op = r.op ∧ ((r'.seq = r.seq + 1 ∧ t.trace.length = s.trace.length + 1) ∨
      (r'.seq = r.seq ∧ r.op = .flushCooperative ∧ r.seq = 5 ∧ r.pending = false ∧
        t = { s with op := some { r with pending := true } }))

/-- R172: after any `send` the data/command line is at the command level, after a successful `flush` at the data level, after a
failed operation at the level of its last successful `DC.set`, or of the one before it if it made none. -/
def Obligations.DataCommandLineFollowsTheCalls : Prop :=
  (∀ (i : Instr) (s : State) (d : Driver), s.driver = some d → s.okFor 2 →
    ∃ t, exec i s = .next t ∧ dcLevel t.trace = some s.cfg.dcCommandLevel) ∧
  (∀ (s : State) (d : Driver), Starting s d .flush → s.okFor 6 →
    ∃ t, run 6 s = .next t ∧ t.reply = some .ok ∧ dcLevel t.trace = some s.cfg.dcCommandLevel.opposite) ∧
  (∀ (s : State) (d : Driver) (op : Operation) (k : Nat) (ev : Event) (e : ErrorValue) (f : Failure),
    Starting s d op → op ≠ .send → (operationTrace s.cfg d op)[k]? = some ev → ev.failureKind e = some f →
    s.okFor (answersIn ((operationTrace s.cfg d op).take k)) →
    s.returnsFor (delaysIn ((operationTrace s.cfg d op).take k)) →
    s.answers.get (answersIn ((operationTrace s.cfg d op).take k)) = some (.error e) →
    ∃ t, run (stepsFor op (k + 1)) s = .next t ∧ t.reply = some (.failure f) ∧
      dcLevel t.trace = dcLevel (s.trace ++ (operationTrace s.cfg d op).take k))

/-- R166, first half: after every `set_rotation` and every `init` that returned `ok` the last remap byte the device was sent is
the byte of `ROT`. It needs distinct first bytes (92 D1), or another Command could pass for the remap Command. -/
def Obligations.RotationAgreesWithTheDeviceAfterSetRotationAndInit : Prop :=
  ∀ (s : State) (d : Driver) (op : Operation), s.cfg.distinctFirstBytes = true →
    (op = .init ∨ ∃ r, op = .setRotation r) → Starting s d op →
    s.okFor (answersIn (operationTrace s.cfg d op)) →
    ∃ t d', run (operationTrace s.cfg d op).length s = .next t ∧ t.driver = some d' ∧ t.reply = some .ok ∧
      d'.rot = rotationAfter op d.rot ∧
      knownRemap t.trace = some (remapByte s.cfg (s.cfg.rotTable.row d'.rot).hMirror
        (s.cfg.rotTable.row d'.rot).vMirror .cm65k (s.cfg.rotTable.row d'.rot).inc)

/-- Two overlapping requests have no meaning: a caller that does not wait while an operation is in progress is refused. During
the suspension of a cooperative `flush` too, but for a request to another instance (93 U6; log entries 9 and 10). -/
def Obligations.OverlappingRequestIsRefused : Prop :=
  ∀ (s : State) (r : Running) (h : HostInput) (rest : List HostInput), s.op = some r → r.op ≠ .send →
    s.requests = h :: rest → h.waits = false → (r.pending = false ∨ forAnother h.request = false) →
    step s = .refused .overlappingRequest

/-- There is no background execution: when no operation is in progress and the host asks nothing, nothing changes. -/
def Obligations.IdleBlockDoesNothing : Prop :=
  ∀ (s : State) (n : Nat), s.op = none → s.requests = [] → run n s = .next s
end

