-- ==== Sys2Proof/Laws/Encoding.lean ====
section
/-! SUPPORT. The codec: lengths, first bytes, and finding a row again by its first byte. -/

namespace Sys2Proof

@[simp] theorem channels_length (c : Colour) : (channels c).length = 3 := rfl

/-- The length depends on the variant alone (30_encoding.md R51). -/
theorem encode_length (cfg : Config) (i : Instr) : (encode cfg i).length = i.opcode.wireLen := by
  cases i <;> rfl

/-- Byte 0 is the opcode byte (30_encoding.md R51, R54). -/
theorem encode_head (cfg : Config) (i : Instr) : (encode cfg i).head? = some (firstByte cfg i.opcode) := by
  cases i <;> rfl

theorem encode_ne_nil (cfg : Config) (i : Instr) : encode cfg i ≠ [] := by
  cases i <;> exact List.cons_ne_nil _ _

/-- Wire lengths are 1 to 11 (30_encoding.md R50). -/
theorem Opcode.wireLen_range (o : Opcode) : 1 ≤ o.wireLen ∧ o.wireLen ≤ MAX_WIRE_LEN := by cases o <;> decide

theorem Opcode.mem_all (o : Opcode) : o ∈ Opcode.all := by cases o <;> decide

/-- With distinct first bytes a row is found by its first byte (30_encoding.md R58). -/
theorem opcodeOf_firstByte (cfg : Config) (o : Opcode) (h : cfg.distinctFirstBytes = true) :
    opcodeOf cfg (firstByte cfg o) = some o := by
  have hn : (Opcode.all.map (firstByte cfg)).Nodup := of_decide_eq_true h
  have hinj := List.inj_on_of_nodup_map hn
  cases hf : opcodeOf cfg (firstByte cfg o) with
  | none =>
    have := List.find?_eq_none.mp hf o (Opcode.mem_all o)
    simp at this
  | some p =>
    have hp := List.find?_some hf
    have : firstByte cfg p = firstByte cfg o := by simpa using hp
    rw [hinj (Opcode.mem_all p) (Opcode.mem_all o) this]

/-- What a found row's first byte is. -/
theorem firstByte_of_opcodeOf (cfg : Config) (b : Byte) (o : Opcode) (h : opcodeOf cfg b = some o) :
    firstByte cfg o = b := by
  simpa using List.find?_some h

theorem Config.distinct_of_wf (cfg : Config) (h : cfg.wf = true) : cfg.distinctFirstBytes = true := by
  simp only [Config.wf, Bool.and_eq_true] at h
  exact h.1.1.1.1.1

theorem Config.incVertical_of_wf (cfg : Config) (h : cfg.wf = true) : cfg.incVerticalCode = 1#1 := by
  simp only [Config.wf, Bool.and_eq_true, beq_iff_eq] at h
  exact h.1.1.1.1.2

end Sys2Proof
end

