-- ==== Sys2Proof/Laws/State.lean ====
section
/-! SUPPORT. One lemma for each field of State under each update the operations make, and the small facts of a script. -/

namespace Sys2Proof.Machine

@[simp] theorem emit_cfg (e : Event) (s : State) : (emit e s).cfg = s.cfg := rfl
@[simp] theorem emit_driver (e : Event) (s : State) : (emit e s).driver = s.driver := rfl
@[simp] theorem emit_others (e : Event) (s : State) : (emit e s).others = s.others := rfl
@[simp] theorem emit_op (e : Event) (s : State) : (emit e s).op = s.op := rfl
@[simp] theorem emit_cmdbuf (e : Event) (s : State) : (emit e s).cmdbuf = s.cmdbuf := rfl
@[simp] theorem emit_requests (e : Event) (s : State) : (emit e s).requests = s.requests := rfl
@[simp] theorem emit_answers (e : Event) (s : State) : (emit e s).answers = s.answers := rfl
@[simp] theorem emit_delays (e : Event) (s : State) : (emit e s).delays = s.delays := rfl
@[simp] theorem emit_trace (e : Event) (s : State) : (emit e s).trace = s.trace ++ [e] := rfl
@[simp] theorem emit_reply (e : Event) (s : State) : (emit e s).reply = s.reply := rfl

@[simp] theorem endOperation_cfg (r : Reply) (s : State) : (endOperation r s).cfg = s.cfg := rfl
@[simp] theorem endOperation_driver (r : Reply) (s : State) : (endOperation r s).driver = s.driver := rfl
@[simp] theorem endOperation_others (r : Reply) (s : State) : (endOperation r s).others = s.others := rfl
@[simp] theorem endOperation_op (r : Reply) (s : State) : (endOperation r s).op = none := rfl
@[simp] theorem endOperation_cmdbuf (r : Reply) (s : State) : (endOperation r s).cmdbuf = none := rfl
@[simp] theorem endOperation_requests (r : Reply) (s : State) : (endOperation r s).requests = s.requests := rfl
@[simp] theorem endOperation_answers (r : Reply) (s : State) : (endOperation r s).answers = s.answers := rfl
@[simp] theorem endOperation_delays (r : Reply) (s : State) : (endOperation r s).delays = s.delays := rfl
@[simp] theorem endOperation_trace (r : Reply) (s : State) : (endOperation r s).trace = s.trace := rfl
@[simp] theorem endOperation_reply (r : Reply) (s : State) : (endOperation r s).reply = some r := rfl

@[simp] theorem failOperation_cfg (f : Failure) (s : State) : (failOperation f s).cfg = s.cfg := rfl
@[simp] theorem failOperation_driver (f : Failure) (s : State) : (failOperation f s).driver = s.driver := rfl
@[simp] theorem failOperation_others (f : Failure) (s : State) : (failOperation f s).others = s.others := rfl
@[simp] theorem failOperation_op (f : Failure) (s : State) : (failOperation f s).op = none := rfl
@[simp] theorem failOperation_cmdbuf (f : Failure) (s : State) : (failOperation f s).cmdbuf = none := rfl
@[simp] theorem failOperation_requests (f : Failure) (s : State) : (failOperation f s).requests = s.requests := rfl
@[simp] theorem failOperation_answers (f : Failure) (s : State) : (failOperation f s).answers = s.answers := rfl
@[simp] theorem failOperation_delays (f : Failure) (s : State) : (failOperation f s).delays = s.delays := rfl
@[simp] theorem failOperation_trace (f : Failure) (s : State) : (failOperation f s).trace = s.trace := rfl
@[simp] theorem failOperation_reply (f : Failure) (s : State) : (failOperation f s).reply = some (.failure f) := rfl

@[simp] theorem answerHost_cfg (r : Reply) (s : State) : (answerHost r s).cfg = s.cfg := rfl
@[simp] theorem answerHost_driver (r : Reply) (s : State) : (answerHost r s).driver = s.driver := rfl
@[simp] theorem answerHost_others (r : Reply) (s : State) : (answerHost r s).others = s.others := rfl
@[simp] theorem answerHost_op (r : Reply) (s : State) : (answerHost r s).op = s.op := rfl
@[simp] theorem answerHost_cmdbuf (r : Reply) (s : State) : (answerHost r s).cmdbuf = s.cmdbuf := rfl
@[simp] theorem answerHost_requests (r : Reply) (s : State) : (answerHost r s).requests = s.requests := rfl
@[simp] theorem answerHost_answers (r : Reply) (s : State) : (answerHost r s).answers = s.answers := rfl
@[simp] theorem answerHost_delays (r : Reply) (s : State) : (answerHost r s).delays = s.delays := rfl
@[simp] theorem answerHost_trace (r : Reply) (s : State) : (answerHost r s).trace = s.trace := rfl
@[simp] theorem answerHost_reply (r : Reply) (s : State) : (answerHost r s).reply = some r := rfl

@[simp] theorem advance_cfg (s : State) : (advance s).cfg = s.cfg := rfl
@[simp] theorem advance_driver (s : State) : (advance s).driver = s.driver := rfl
@[simp] theorem advance_others (s : State) : (advance s).others = s.others := rfl
@[simp] theorem advance_op (s : State) : (advance s).op = s.op.map fun r => { r with seq := r.seq + 1 } := rfl
@[simp] theorem advance_cmdbuf (s : State) : (advance s).cmdbuf = s.cmdbuf := rfl
@[simp] theorem advance_requests (s : State) : (advance s).requests = s.requests := rfl
@[simp] theorem advance_answers (s : State) : (advance s).answers = s.answers := rfl
@[simp] theorem advance_delays (s : State) : (advance s).delays = s.delays := rfl
@[simp] theorem advance_trace (s : State) : (advance s).trace = s.trace := rfl
@[simp] theorem advance_reply (s : State) : (advance s).reply = s.reply := rfl

@[simp] theorem loadCommand_cfg (wire : List Byte) (s : State) : (loadCommand wire s).cfg = s.cfg := rfl
@[simp] theorem loadCommand_driver (wire : List Byte) (s : State) : (loadCommand wire s).driver = s.driver := rfl
@[simp] theorem loadCommand_others (wire : List Byte) (s : State) : (loadCommand wire s).others = s.others := rfl
@[simp] theorem loadCommand_op (wire : List Byte) (s : State) : (loadCommand wire s).op = s.op := rfl
@[simp] theorem loadCommand_cmdbuf (wire : List Byte) (s : State) : (loadCommand wire s).cmdbuf = some (CmdBuf.ofWire s.cfg.cmdArraySize wire) := rfl
@[simp] theorem loadCommand_requests (wire : List Byte) (s : State) : (loadCommand wire s).requests = s.requests := rfl
@[simp] theorem loadCommand_answers (wire : List Byte) (s : State) : (loadCommand wire s).answers = s.answers := rfl
@[simp] theorem loadCommand_delays (wire : List Byte) (s : State) : (loadCommand wire s).delays = s.delays := rfl
@[simp] theorem loadCommand_trace (wire : List Byte) (s : State) : (loadCommand wire s).trace = s.trace := rfl
@[simp] theorem loadCommand_reply (wire : List Byte) (s : State) : (loadCommand wire s).reply = s.reply := rfl

@[simp] theorem storeRotation_cfg (r : Rotation) (s : State) : (storeRotation r s).cfg = s.cfg := rfl
@[simp] theorem storeRotation_driver (r : Rotation) (s : State) : (storeRotation r s).driver = s.driver.map fun d => { d with rot := r } := rfl
@[simp] theorem storeRotation_others (r : Rotation) (s : State) : (storeRotation r s).others = s.others := rfl
@[simp] theorem storeRotation_op (r : Rotation) (s : State) : (storeRotation r s).op = s.op := rfl
@[simp] theorem storeRotation_cmdbuf (r : Rotation) (s : State) : (storeRotation r s).cmdbuf = s.cmdbuf := rfl
@[simp] theorem storeRotation_requests (r : Rotation) (s : State) : (storeRotation r s).requests = s.requests := rfl
@[simp] theorem storeRotation_answers (r : Rotation) (s : State) : (storeRotation r s).answers = s.answers := rfl
@[simp] theorem storeRotation_delays (r : Rotation) (s : State) : (storeRotation r s).delays = s.delays := rfl
@[simp] theorem storeRotation_trace (r : Rotation) (s : State) : (storeRotation r s).trace = s.trace := rfl
@[simp] theorem storeRotation_reply (r : Rotation) (s : State) : (storeRotation r s).reply = s.reply := rfl

@[simp] theorem storeFramebuffer_cfg (d : Driver) (m : Memory) (s : State) : (storeFramebuffer d m s).cfg = s.cfg := rfl
@[simp] theorem storeFramebuffer_driver (d : Driver) (m : Memory) (s : State) : (storeFramebuffer d m s).driver = some { d with fb := m } := rfl
@[simp] theorem storeFramebuffer_others (d : Driver) (m : Memory) (s : State) : (storeFramebuffer d m s).others = s.others := rfl
@[simp] theorem storeFramebuffer_op (d : Driver) (m : Memory) (s : State) : (storeFramebuffer d m s).op = s.op := rfl
@[simp] theorem storeFramebuffer_cmdbuf (d : Driver) (m : Memory) (s : State) : (storeFramebuffer d m s).cmdbuf = s.cmdbuf := rfl
@[simp] theorem storeFramebuffer_requests (d : Driver) (m : Memory) (s : State) : (storeFramebuffer d m s).requests = s.requests := rfl
@[simp] theorem storeFramebuffer_answers (d : Driver) (m : Memory) (s : State) : (storeFramebuffer d m s).answers = s.answers := rfl
@[simp] theorem storeFramebuffer_delays (d : Driver) (m : Memory) (s : State) : (storeFramebuffer d m s).delays = s.delays := rfl
@[simp] theorem storeFramebuffer_trace (d : Driver) (m : Memory) (s : State) : (storeFramebuffer d m s).trace = s.trace := rfl
@[simp] theorem storeFramebuffer_reply (d : Driver) (m : Memory) (s : State) : (storeFramebuffer d m s).reply = s.reply := rfl

@[simp] theorem withFetchWord_cfg (nbits w : Nat) (s : State) : (s.withFetchWord nbits w).cfg = s.cfg := rfl
@[simp] theorem withFetchWord_driver (nbits w : Nat) (s : State) : (s.withFetchWord nbits w).driver = s.driver := rfl
@[simp] theorem withFetchWord_others (nbits w : Nat) (s : State) : (s.withFetchWord nbits w).others = s.others := rfl
@[simp] theorem withFetchWord_op (nbits w : Nat) (s : State) : (s.withFetchWord nbits w).op = some { op := .send, seq := 0, pending := false } := rfl
@[simp] theorem withFetchWord_cmdbuf (nbits w : Nat) (s : State) : (s.withFetchWord nbits w).cmdbuf = some (fetchBuffer s.cfg nbits w) := rfl
@[simp] theorem withFetchWord_requests (nbits w : Nat) (s : State) : (s.withFetchWord nbits w).requests = s.requests := rfl
@[simp] theorem withFetchWord_answers (nbits w : Nat) (s : State) : (s.withFetchWord nbits w).answers = s.answers := rfl
@[simp] theorem withFetchWord_delays (nbits w : Nat) (s : State) : (s.withFetchWord nbits w).delays = s.delays := rfl
@[simp] theorem withFetchWord_trace (nbits w : Nat) (s : State) : (s.withFetchWord nbits w).trace = s.trace := rfl
@[simp] theorem withFetchWord_reply (nbits w : Nat) (s : State) : (s.withFetchWord nbits w).reply = s.reply := rfl

/-! Instances. -/

@[simp] theorem setAside_cfg (s : State) : (setAside s).cfg = s.cfg := by unfold setAside; split <;> rfl
@[simp] theorem setAside_driver (s : State) : (setAside s).driver = none := by unfold setAside; split <;> simp [*]
@[simp] theorem setAside_cmdbuf (s : State) : (setAside s).cmdbuf = s.cmdbuf := by unfold setAside; split <;> rfl
@[simp] theorem setAside_requests (s : State) : (setAside s).requests = s.requests := by unfold setAside; split <;> rfl
@[simp] theorem setAside_answers (s : State) : (setAside s).answers = s.answers := by unfold setAside; split <;> rfl
@[simp] theorem setAside_delays (s : State) : (setAside s).delays = s.delays := by unfold setAside; split <;> rfl
@[simp] theorem setAside_reply (s : State) : (setAside s).reply = s.reply := by unfold setAside; split <;> rfl

theorem setAside_none (s : State) (h : s.driver = none) : setAside s = s := by simp [setAside, h]

theorem setAside_some (s : State) (d : Driver) (h : s.driver = some d) : setAside s = { s with
    driver := none
    op := none
    others := { driver := d, suspended := s.op.isSome, trace := s.trace } :: s.others } := by
  simp [setAside, h]

/-- Every other instance stands where it stood. -/
theorem others_setAside (s : State) (i : Instance) (h : i ∈ s.others) : i ∈ (setAside s).others := by
  unfold setAside; split <;> simp [h]

@[simp] theorem takeUp_cfg (i : Instance) (s : State) : (takeUp i s).cfg = s.cfg := rfl
@[simp] theorem takeUp_driver (i : Instance) (s : State) : (takeUp i s).driver = some i.driver := rfl
@[simp] theorem takeUp_others (i : Instance) (s : State) :
    (takeUp i s).others = s.others.eraseP (Instance.holds i.driver.bus) := rfl
@[simp] theorem takeUp_op (i : Instance) (s : State) :
    (takeUp i s).op = if i.suspended then some suspendedFlush else none := rfl
@[simp] theorem takeUp_cmdbuf (i : Instance) (s : State) : (takeUp i s).cmdbuf = s.cmdbuf := rfl
@[simp] theorem takeUp_requests (i : Instance) (s : State) : (takeUp i s).requests = s.requests := rfl
@[simp] theorem takeUp_answers (i : Instance) (s : State) : (takeUp i s).answers = s.answers := rfl
@[simp] theorem takeUp_delays (i : Instance) (s : State) : (takeUp i s).delays = s.delays := rfl
@[simp] theorem takeUp_trace (i : Instance) (s : State) : (takeUp i s).trace = i.trace := rfl
@[simp] theorem takeUp_reply (i : Instance) (s : State) : (takeUp i s).reply = s.reply := rfl

/-- The instance that the host turns to is a living one that holds the transport named. -/
theorem find_holds (t : Handle) (is : List Instance) (i : Instance) (h : is.find? (Instance.holds t) = some i) :
    i ∈ is ∧ i.driver.bus = t :=
  ⟨List.mem_of_find?_eq_some h, by simpa [Instance.holds] using List.find?_some h⟩

/-! Scripts. -/

@[simp] theorem Script.get_zero {α : Type} (p : Script α) : p.get 0 = p.head := by
  cases p with | mk u a => cases u <;> rfl

@[simp] theorem Script.skip_zero {α : Type} (p : Script α) : p.skip 0 = p := rfl

theorem Script.tail_eq_skip {α : Type} (p : Script α) : p.tail = p.skip 1 := by
  cases p with | mk u a => cases u <;> rfl

@[simp] theorem Script.head_skip {α : Type} (p : Script α) (n : Nat) : (p.skip n).head = p.get n := by
  cases p with | mk u a => simp [skip, head, get, List.headD_eq_head?_getD, List.getD_eq_getElem?_getD]

@[simp] theorem Script.tail_skip {α : Type} (p : Script α) (n : Nat) : (p.skip n).tail = p.skip (n + 1) := by
  cases p with | mk u a => simp [skip, tail]

@[simp] theorem Script.get_skip {α : Type} (p : Script α) (m n : Nat) : (p.skip m).get n = p.get (m + n) := by
  cases p with | mk u a => simp [skip, get, List.getD_eq_getElem?_getD]

@[simp] theorem Script.skip_skip {α : Type} (p : Script α) (m n : Nat) : (p.skip m).skip n = p.skip (m + n) := by
  cases p with | mk u a => simp [skip, List.drop_drop]

/-- After reset nothing is listed and every call answers `ok` (log entry 4). -/
@[simp] theorem Script.head_nil {α : Type} (a : α) : (Script.mk [] a).head = a := rfl

end Sys2Proof.Machine
end

