-- ==== Sys2Proof/Laws/Calls.lean ====
section
/-! SUPPORT. One lemma for each answer of each capability call, and what a whole `send` can do. -/

namespace Sys2Proof.Machine

@[simp] theorem CmdBuf.wire_ofWire (size : Nat) (wire : List Byte) : (CmdBuf.ofWire size wire).wire = wire := by
  simp [CmdBuf.ofWire, CmdBuf.wire]

theorem tryCall_ok (event : Answer → Event) (kind : ErrorValue → Failure) (s : State)
    (h : s.answers.head = some .ok) :
    tryCall event kind s = .ok (emit (event .ok) { s with answers := s.answers.tail }) := by
  simp [tryCall, h]

theorem tryCall_error (event : Answer → Event) (kind : ErrorValue → Failure) (s : State) (e : ErrorValue)
    (h : s.answers.head = some (.error e)) :
    tryCall event kind s =
      .failed (failOperation (kind e) (emit (event (.error e)) { s with answers := s.answers.tail })) := by
  simp [tryCall, h]

theorem tryCall_never (event : Answer → Event) (kind : ErrorValue → Failure) (s : State)
    (h : s.answers.head = none) : tryCall event kind s = .stuck .capabilityNeverAnswers := by
  simp [tryCall, h]

/-- The state after the first call of a `send` of these bytes answered `ok`. -/
def afterCommandLevel (wire : List Byte) (s : State) : State :=
  advance (emit (.dcSet s.cfg.dcCommandLevel .ok)
    { s with answers := s.answers.tail, cmdbuf := some (CmdBuf.ofWire s.cfg.cmdArraySize wire) })

/-- A `send` whose two calls answer `ok`. -/
theorem send_ok (wire : List Byte) (s : State) (d : Driver) (hd : s.driver = some d)
    (h1 : s.answers.head = some .ok) (h2 : s.answers.tail.head = some .ok) :
    send wire s = .next { s with
      op := s.op.map fun r => { r with seq := r.seq + 2 }
      cmdbuf := none
      answers := s.answers.tail.tail
      trace := s.trace ++ [.dcSet s.cfg.dcCommandLevel .ok, .busWrite wire .ok] } := by
  simp only [send, hd, dcCommand, dcSet]
  rw [tryCall_ok _ _ (loadCommand wire s) (by simpa using h1)]
  simp only [Tried.andThen, busCommand, advance_cmdbuf, emit_cmdbuf, loadCommand_cmdbuf, busWrite]
  rw [tryCall_ok _ _ _ (by simpa using h2)]
  simp [Tried.outcome, advance, emit, loadCommand, Option.map_map, Function.comp_def, hd]

/-- A `send` whose `DC.set` fails: no byte is written. -/
theorem send_pinFailure (wire : List Byte) (s : State) (d : Driver) (e : ErrorValue) (hd : s.driver = some d)
    (h1 : s.answers.head = some (.error e)) :
    send wire s = .next { s with
      op := none
      cmdbuf := none
      answers := s.answers.tail
      trace := s.trace ++ [.dcSet s.cfg.dcCommandLevel (.error e)]
      reply := some (.failure (.pinFailure e)) } := by
  simp only [send, hd, dcCommand, dcSet]
  rw [tryCall_error _ _ (loadCommand wire s) e (by simpa using h1)]
  simp [Tried.andThen, Tried.outcome, failOperation, endOperation, emit, loadCommand, hd]

/-- A `send` whose `BUS.write` fails. -/
theorem send_commFailure (wire : List Byte) (s : State) (d : Driver) (e : ErrorValue) (hd : s.driver = some d)
    (h1 : s.answers.head = some .ok) (h2 : s.answers.tail.head = some (.error e)) :
    send wire s = .next { s with
      op := none
      cmdbuf := none
      answers := s.answers.tail.tail
      trace := s.trace ++ [.dcSet s.cfg.dcCommandLevel .ok, .busWrite wire (.error e)]
      reply := some (.failure (.commFailure e)) } := by
  simp only [send, hd, dcCommand, dcSet]
  rw [tryCall_ok _ _ (loadCommand wire s) (by simpa using h1)]
  simp only [Tried.andThen, busCommand, advance_cmdbuf, emit_cmdbuf, loadCommand_cmdbuf, busWrite]
  rw [tryCall_error _ _ _ e (by simpa using h2)]
  simp [Tried.outcome, failOperation, endOperation, advance, emit, loadCommand, hd]

/-- A `send` with a call that never answers. -/
theorem send_never (wire : List Byte) (s : State) (d : Driver) (hd : s.driver = some d)
    (h : s.answers.head = none ∨ (s.answers.head = some .ok ∧ s.answers.tail.head = none)) :
    send wire s = .fault .capabilityNeverAnswers := by
  simp only [send, hd, dcCommand, dcSet]
  rcases h with h1 | ⟨h1, h2⟩
  · rw [tryCall_never _ _ (loadCommand wire s) (by simpa using h1)]
    rfl
  · rw [tryCall_ok _ _ (loadCommand wire s) (by simpa using h1)]
    simp only [Tried.andThen, busCommand, advance_cmdbuf, emit_cmdbuf, loadCommand_cmdbuf, busWrite]
    rw [tryCall_never _ _ _ (by simpa using h2)]
    rfl

theorem send_noDriver (wire : List Byte) (s : State) (hd : s.driver = none) : send wire s = .refused .noDriver := by
  simp [send, hd]

/-- Executing a Command is the `send` of its wire bytes (40_command_codec.md R70). -/
theorem exec_eq_send (i : Instr) (s : State) : exec i s = send (encode s.cfg i) s := by
  cases i <;> rfl

/-- Everything a `send` can do with an instance: one of four cases, by the environment's answers. -/
theorem send_cases (wire : List Byte) (s : State) (d : Driver) (hd : s.driver = some d) :
    (send wire s = .fault .capabilityNeverAnswers) ∨
    (∃ e, s.answers.head = some (.error e) ∧ send wire s = .next { s with
      op := none, cmdbuf := none, answers := s.answers.tail
      trace := s.trace ++ [.dcSet s.cfg.dcCommandLevel (.error e)]
      reply := some (.failure (.pinFailure e)) }) ∨
    (∃ e, s.answers.head = some .ok ∧ s.answers.tail.head = some (.error e) ∧ send wire s = .next { s with
      op := none, cmdbuf := none, answers := s.answers.tail.tail
      trace := s.trace ++ [.dcSet s.cfg.dcCommandLevel .ok, .busWrite wire (.error e)]
      reply := some (.failure (.commFailure e)) }) ∨
    (s.answers.head = some .ok ∧ s.answers.tail.head = some .ok ∧ send wire s = .next { s with
      op := s.op.map fun r => { r with seq := r.seq + 2 }, cmdbuf := none, answers := s.answers.tail.tail
      trace := s.trace ++ [.dcSet s.cfg.dcCommandLevel .ok, .busWrite wire .ok] }) := by
  match h1 : s.answers.head with
  | none => exact .inl (send_never wire s d hd (.inl h1))
  | some (.error e) => exact .inr (.inl ⟨e, rfl, send_pinFailure wire s d e hd h1⟩)
  | some .ok =>
    match h2 : s.answers.tail.head with
    | none => exact .inl (send_never wire s d hd (.inr ⟨h1, h2⟩))
    | some (.error e) => exact .inr (.inr (.inl ⟨e, rfl, rfl, send_commFailure wire s d e hd h1 h2⟩))
    | some .ok => exact .inr (.inr (.inr ⟨rfl, rfl, send_ok wire s d hd h1 h2⟩))

end Sys2Proof.Machine
end

