-- ==== Sys2Proof/Laws/Memory.lean ====
section
/-! SUPPORT. The framebuffer memory: what a read gives after each operation, and that every operation keeps the canonical
form. -/

namespace Sys2Proof.Machine

@[simp] theorem Memory.read_zeroed (a : Nat) : Memory.read Memory.zeroed a = 0x00#8 := rfl

@[simp] theorem Memory.zeroed_wf : Memory.zeroed.wf = true := rfl

theorem Memory.wfFrom_cons (lo k : Nat) (v : Byte) (rest : Memory) :
    Memory.wfFrom lo ((k, v) :: rest) = true ↔
      lo ≤ k ∧ k < FB_SIZE ∧ v ≠ Memory.unlisted ∧ Memory.wfFrom (k + 1) rest = true := by
  simp [Memory.wfFrom, and_assoc]

/-- Below the first possible address of a canonical memory every location reads as unlisted. -/
theorem Memory.read_below (m : Memory) (lo a : Nat) (h : Memory.wfFrom lo m = true) (ha : a < lo) :
    m.read a = Memory.unlisted := by
  induction m generalizing lo with
  | nil => rfl
  | cons c rest ih =>
    obtain ⟨k, v⟩ := c
    rw [Memory.wfFrom_cons] at h
    obtain ⟨hk, -, -, hr⟩ := h
    have hne : a ≠ k := by omega
    simp only [Memory.read, hne, if_false]
    exact ih (k + 1) hr (by omega)

theorem Memory.wfFrom_mono (m : Memory) (lo lo' : Nat) (h : Memory.wfFrom lo m = true) (hle : lo' ≤ lo) :
    Memory.wfFrom lo' m = true := by
  cases m with
  | nil => rfl
  | cons c rest =>
    obtain ⟨k, v⟩ := c
    rw [Memory.wfFrom_cons] at h ⊢
    exact ⟨by omega, h.2⟩

theorem Memory.wfFrom_put (m : Memory) (lo a : Nat) (b : Byte) (h : Memory.wfFrom lo m = true) (hlo : lo ≤ a)
    (ha : a < FB_SIZE) : Memory.wfFrom lo (m.put a b) = true := by
  induction m generalizing lo with
  | nil =>
    by_cases hb : b = Memory.unlisted
    · simp [Memory.put, hb, Memory.wfFrom]
    · simp [Memory.put, hb, Memory.wfFrom, hlo, ha]
  | cons c rest ih =>
    obtain ⟨k, v⟩ := c
    have h0 := h
    rw [Memory.wfFrom_cons] at h
    obtain ⟨hk, hks, hv, hr⟩ := h
    rcases Nat.lt_trichotomy a k with hlt | rfl | hgt
    · by_cases hb : b = Memory.unlisted
      · simpa [Memory.put, hlt, hb] using h0
      · simp only [Memory.put, hlt, hb, if_true, if_false]
        rw [Memory.wfFrom_cons, Memory.wfFrom_cons]
        exact ⟨hlo, ha, hb, by omega, hks, hv, hr⟩
    · by_cases hb : b = Memory.unlisted
      · simpa [Memory.put, hb] using Memory.wfFrom_mono rest (a + 1) lo hr (by omega)
      · simp only [Memory.put, Nat.lt_irrefl, if_true, hb, if_false]
        rw [Memory.wfFrom_cons]
        exact ⟨hlo, ha, hb, hr⟩
    · have h1 : ¬ a < k := by omega
      have h2 : a ≠ k := by omega
      simp only [Memory.put, h1, h2, if_false]
      rw [Memory.wfFrom_cons]
      exact ⟨hk, hks, hv, ih (k + 1) hr (by omega)⟩

/-- `FB[a] <- b` keeps the canonical form. -/
theorem Memory.put_wf (m : Memory) (a : Nat) (b : Byte) (h : m.wf = true) (ha : a < FB_SIZE) :
    (m.put a b).wf = true :=
  Memory.wfFrom_put m 0 a b h (Nat.zero_le a) ha

theorem Memory.read_put_from (m : Memory) (lo a c : Nat) (b : Byte) (h : Memory.wfFrom lo m = true) :
    (m.put a b).read c = if c = a then b else m.read c := by
  induction m generalizing lo with
  | nil =>
    by_cases hb : b = Memory.unlisted <;> by_cases hc : c = a <;> simp [Memory.put, hb, hc, Memory.read]
  | cons q rest ih =>
    obtain ⟨k, v⟩ := q
    rw [Memory.wfFrom_cons] at h
    obtain ⟨hk, -, -, hr⟩ := h
    rcases Nat.lt_trichotomy a k with hlt | rfl | hgt
    · by_cases hb : b = Memory.unlisted
      · simp only [Memory.put, hlt, hb, if_true]
        by_cases hc : c = a
        · subst hc
          have : Memory.read rest c = Memory.unlisted := Memory.read_below rest (k + 1) c hr (by omega)
          simp [Memory.read, this, Nat.ne_of_lt hlt]
        · simp [hc]
      · simp [Memory.put, hlt, hb, Memory.read]
    · by_cases hb : b = Memory.unlisted
      · simp only [Memory.put, Nat.lt_irrefl, if_false, if_true, hb]
        by_cases hc : c = a
        · subst hc
          simpa using Memory.read_below rest (c + 1) c hr (by omega)
        · simp [Memory.read, hc]
      · by_cases hc : c = a <;> simp [Memory.put, hb, Memory.read, hc]
    · have h1 : ¬ a < k := by omega
      have h2 : a ≠ k := by omega
      simp only [Memory.put, h1, h2, if_false, Memory.read, ih (k + 1) hr]
      by_cases hc : c = k
      · have : c ≠ a := by omega
        simp [hc, h2.symm]
      · simp [hc]

/-- A read after a write of one byte. -/
theorem Memory.read_put (m : Memory) (a c : Nat) (b : Byte) (h : m.wf = true) :
    (m.put a b).read c = if c = a then b else m.read c :=
  Memory.read_put_from m 0 a c b h

theorem Memory.putAll_wf (bs : List Byte) (m : Memory) (i : Nat) (h : m.wf = true) (hi : i + bs.length ≤ FB_SIZE) :
    (m.putAll i bs).wf = true := by
  induction bs generalizing m i with
  | nil => exact h
  | cons b rest ih =>
    simp only [List.length_cons] at hi
    exact ih (m.put i b) (i + 1) (Memory.put_wf m i b h (by omega)) (by omega)

/-- `MemWrite` keeps the canonical form. -/
theorem Memory.write_wf (m m' : Memory) (i : Nat) (bs : List Byte) (h : m.wf = true) (hw : m.write i bs = some m') :
    m'.wf = true := by
  unfold Memory.write at hw
  split at hw
  · cases hw; exact Memory.putAll_wf bs m i h ‹_›
  · cases hw

/-- `MemWrite` is defined exactly within `FB`. -/
theorem Memory.write_isSome (m : Memory) (i : Nat) (bs : List Byte) :
    (m.write i bs).isSome = true ↔ i + bs.length ≤ FB_SIZE := by
  unfold Memory.write; split <;> simp [*]

/-- A read after `MemWrite` of two bytes. -/
theorem Memory.read_write_pair (m m' : Memory) (i c : Nat) (hi lo : Byte) (h : m.wf = true)
    (hw : m.write i [hi, lo] = some m') :
    m'.read c = if c = i then hi else if c = i + 1 then lo else m.read c := by
  unfold Memory.write at hw
  split at hw
  case isFalse => cases hw
  case isTrue hle =>
    cases hw
    simp only [List.length_cons, List.length_nil] at hle
    have hm : (m.put i hi).wf = true := Memory.put_wf m i hi h (by omega)
    simp only [Memory.putAll, Memory.read_put _ _ _ _ hm, Memory.read_put _ _ _ _ h]
    by_cases h1 : c = i
    · have : c ≠ i + 1 := by omega
      simp [h1]
    · simp [h1]

@[simp] theorem Memory.bytes_length (m : Memory) : m.bytes.length = FB_SIZE := by simp [Memory.bytes]

/-- Byte number `i` of the data block is `FB[i]`. -/
theorem Memory.bytes_getElem? (m : Memory) (i : Nat) (hi : i < FB_SIZE) : m.bytes[i]? = some (m.read i) := by
  simp [Memory.bytes, hi]

/-- A pixel is two bytes. -/
@[simp] theorem pixelBytes_length (c : Colour) : (pixelBytes c).length = 2 := rfl

/-- The bounds put both bytes of the pixel inside `FB` (95_test_vectors.md T12 (d)). -/
theorem inBounds_byteIndex (r : Rotation) (x y : Nat) (h : inBounds r x y = true) :
    byteIndex r x y + (1 + 1) ≤ FB_SIZE := by
  simp only [inBounds, Bool.and_eq_true, decide_eq_true_eq] at h
  have hs : FB_SIZE = 12288 := rfl
  omega

end Sys2Proof.Machine
end

