-- ==== Sys2Proof/Laws/Walk.lean ====
section
/-! SUPPORT. What one step of an operation in progress does, by the call of its micro-step and the environment's answer. -/

namespace Sys2Proof.Machine

@[simp] theorem finish_idle (s : State) (h : s.op = none) : finish s = s := by simp [finish, h]

/-- Before the end of its list an operation goes on. -/
theorem finish_before (s : State) (r : Running) (d : Driver) (hr : s.op = some r) (hd : s.driver = some d)
    (h : r.seq < (microSteps s.cfg d.rot r.op).length) : finish s = s := by
  simp only [finish, hr, hd]
  rw [if_neg (by omega)]

/-- At the end of its list an operation returns `ok`. -/
theorem finish_done (s : State) (r : Running) (d : Driver) (hr : s.op = some r) (hd : s.driver = some d)
    (h : (microSteps s.cfg d.rot r.op).length ≤ r.seq) : finish s = endOperation .ok s := by
  simp only [finish, hr, hd]
  rw [if_pos h]

/-- Without a caller that cuts in, no suspended operation is left. -/
theorem leavesSuspended_of (r : Running) (s : State) (h : overlapping s = false) : leavesSuspended r s = false := by
  unfold leavesSuspended
  unfold overlapping at h
  split <;> simp_all

/-- A suspended operation is left only for a request to another instance, of a caller that does not wait. -/
theorem leavesSuspended_iff (r : Running) (s : State) (h : HostInput) (rest : List HostInput) (hq : s.requests = h :: rest) :
    leavesSuspended r s = true ↔ r.pending = true ∧ h.waits = false ∧ forAnother h.request = true := by
  simp [leavesSuspended, hq, and_assoc]

/-- A step of an operation of the driver surface is its micro-step. -/
theorem step_walks (s : State) (r : Running) (d : Driver) (m : MicroStep) (hr : s.op = some r)
    (hs : ¬ (r.op = .send ∧ r.seq = 0)) (ho : overlapping s = false) (hd : s.driver = some d)
    (hm : (microSteps s.cfg d.rot r.op)[r.seq]? = some m) : step s = microStep r d m s := by
  simp [step, hr, continueOperation, hs, leavesSuspended_of r s ho, ho, walk, hd, hm]

/-- A micro-step that does not suspend. -/
theorem microStep_call (s : State) (r : Running) (d : Driver) (m : MicroStep) (h : suspendsBefore r m = false) :
    microStep r d m s = (performCall d m.call (prepare m s)).outcome finish := by
  simp [microStep, h]

/-- Only the data write of a cooperative `flush` suspends. -/
theorem suspends_only (r : Running) (m : MicroStep) :
    suspendsBefore r m = true ↔ r.op = .flushCooperative ∧ m.call = .busData ∧ r.pending = false := by
  simp [suspendsBefore, and_assoc]

@[simp] theorem prepare_of (c : Call) (s : State) : prepare (.of c) s = s := rfl

@[simp] theorem prepare_load (i : Instr) (c : Call) (s : State) :
    prepare ⟨none, some i, c⟩ s = loadCommand (encode s.cfg i) s := rfl

@[simp] theorem prepare_store (r : Rotation) (i : Instr) (c : Call) (s : State) :
    prepare ⟨some r, some i, c⟩ s = loadCommand (encode s.cfg i) (storeRotation r s) := rfl

theorem run_zero (s : State) : run 0 s = .next s := rfl

/-- The first step of a run, by what it answers. -/
theorem core_run_next (M : Host.Core) (n : Nat) (s t : M.State) (h : M.step s = .next t) :
    M.run (n + 1) s = M.run n t := by
  rw [Host.Core.run, h]

theorem core_run_fault (M : Host.Core) (n : Nat) (s : M.State) (f : M.Fault) (h : M.step s = .fault f) :
    M.run (n + 1) s = .fault f := by
  rw [Host.Core.run, h]

theorem core_run_refused (M : Host.Core) (n : Nat) (s : M.State) (q : M.Refusal) (h : M.step s = .refused q) :
    M.run (n + 1) s = .refused q := by
  rw [Host.Core.run, h]

theorem run_step (n : Nat) (s : State) : run (n + 1) s = match step s with
    | .next t => run n t
    | .fault f => .fault f
    | .refused q => .refused q := by
  match h : step s with
  | .next t => exact core_run_next Sys2Proof.core n s t h
  | .fault f => exact core_run_fault Sys2Proof.core n s f h
  | .refused q => exact core_run_refused Sys2Proof.core n s q h

theorem run_succ (n : Nat) (s t : State) (h : step s = .next t) : run (n + 1) s = run n t := by
  rw [run_step, h]

/-- Two runs one after the other. -/
theorem run_add (m n : Nat) (s t : State) (h : run m s = .next t) : run (m + n) s = run n t := by
  induction m generalizing s with
  | zero => cases h; simp
  | succ m ih =>
    rw [run_step] at h
    match hstep : step s with
    | .next s' =>
      rw [hstep] at h
      rw [show m + 1 + n = (m + n) + 1 by omega, run_succ _ _ _ hstep]
      exact ih s' h
    | .fault r => rw [hstep] at h; cases h
    | .refused r => rw [hstep] at h; cases h

end Sys2Proof.Machine
end

