-- ==== Sys2Proof/Laws/Steps.lean ====
section
/-! SUPPORT. Everything one step can do: of a request, of a capability call, of a micro-step and of the machine. -/

namespace Sys2Proof.Machine

/-- Once the addressed instance is set aside, the others are all that live. -/
theorem setAside_others_drivers (s : State) : (setAside s).others.map Instance.driver = s.instances := by
  cases hd : s.driver with
  | none => rw [setAside_none s hd]; simp [State.instances, hd]
  | some d => rw [setAside_some s d hd]; simp [State.instances, hd]

theorem lineInUse_iff (line : Handle) (s : State) : lineInUse line (setAside s).others = false ↔ s.lineFree line := by
  rw [State.lineFree, ← setAside_others_drivers]; simp [lineInUse]

theorem handleInUse_iff (a b : Handle) (s : State) : handleInUse a b (setAside s).others = false ↔ s.unheld a b := by
  rw [State.unheld, ← setAside_others_drivers]; simp [handleInUse, lineInUse, Instance.holds, forall_and]

/-- Everything a request can do when it is taken up. -/
theorem issue_cases (q : Request) (s t : State) (h : issue q s = .next t) :
    (∃ d op, s.driver = some d ∧ forAnother q = false ∧ op ≠ .send ∧
      (∀ line delay, op = .reset line delay → s.lineFree line) ∧
      t = { s with op := some { op := op, seq := 0, pending := false }, reply := none }) ∨
    (∃ d rep, s.driver = some d ∧ forAnother q = false ∧ t = answerHost rep s) ∨
    (∃ d, s.driver = some d ∧ q = .clear ∧ t = answerHost .nothing (storeFramebuffer d Memory.zeroed s)) ∨
    (∃ d x y c m, s.driver = some d ∧ q = .setPixel x y c ∧ inBounds d.rot x y = true ∧
      Memory.write d.fb (byteIndex d.rot x y) (pixelBytes c) = some m ∧
      t = answerHost .nothing (storeFramebuffer d m s)) ∨
    (∃ d, s.driver = some d ∧ q = .release ∧ t = answerHost (.handles d.bus d.dc) { s with driver := none }) ∨
    (∃ a b r, q = .new a b r ∧ handleInUse a b (setAside s).others = false ∧ t = answerHost .driver
      { setAside s with driver := some { rot := r, fb := Memory.zeroed, bus := a, dc := b }, trace := [] }) ∨
    (∃ a i, q = .turnTo a ∧ (setAside s).others.find? (Instance.holds a) = some i ∧ t = takeUp i (setAside s)) := by
  have hnew : ∀ a b r, opNew a b r s = .next t → handleInUse a b (setAside s).others = false ∧ t = answerHost .driver
      { setAside s with driver := some { rot := r, fb := Memory.zeroed, bus := a, dc := b }, trace := [] } := by
    intro a b r h
    unfold opNew at h
    split at h
    · cases h
    · cases h; exact ⟨by simp_all, rfl⟩
  have hturn : ∀ a, opTurnTo a s = .next t → ∃ i, (setAside s).others.find? (Instance.holds a) = some i ∧
      t = takeUp i (setAside s) := by
    intro a h
    unfold opTurnTo at h
    split at h
    · cases h
    · rename_i i hi
      cases h; exact ⟨i, hi, rfl⟩
  cases hd : s.driver with
  | none =>
    cases q with
    | new a b r => obtain ⟨h1, h2⟩ := hnew a b r h; simp [h1, h2]
    | turnTo a => obtain ⟨i, h1, h2⟩ := hturn a h; simp [h1, h2]
    | _ =>
      simp [issue, hd, opReset, opInit, opClear, opSetPixel, opFlush, opFlushCooperative, opSetDrawArea,
        opDimensions, opSetRotation, opRotation, opTurnOn, opTurnOff, opRelease, startOperation] at h
  | some d =>
    cases q with
    | setPixel x y c =>
      simp only [issue, opSetPixel, hd] at h
      split at h
      · rename_i hb
        split at h
        · cases h
        · rename_i m hm
          cases h
          exact .inr (.inr (.inr (.inl ⟨d, x, y, c, m, rfl, rfl, hb, hm, rfl⟩)))
      · cases h; exact .inr (.inl ⟨d, _, rfl, rfl, rfl⟩)
    | clear => simp [issue, opClear, hd] at h; exact .inr (.inr (.inl ⟨d, rfl, rfl, h.symm⟩))
    | release =>
      simp [issue, opRelease, hd] at h
      exact .inr (.inr (.inr (.inr (.inl ⟨d, rfl, rfl, h.symm⟩))))
    | new a b r => obtain ⟨h1, h2⟩ := hnew a b r h; simp [h1, h2]
    | turnTo a => obtain ⟨i, h1, h2⟩ := hturn a h; simp [h1, h2]
    | reset line delay =>
      simp only [issue, opReset, hd, Option.isSome_some, Bool.true_and] at h
      split at h
      · cases h
      · rename_i hl
        simp only [startOperation, hd] at h
        cases h
        refine .inl ⟨d, _, rfl, rfl, by simp, fun a b hab => ?_, rfl⟩
        cases hab
        exact (lineInUse_iff line s).1 (by simpa using hl)
    | dimensions => simp [issue, opDimensions, hd] at h; exact .inr (.inl ⟨d, _, rfl, rfl, h.symm⟩)
    | rotation => simp [issue, opRotation, hd] at h; exact .inr (.inl ⟨d, _, rfl, rfl, h.symm⟩)
    | _ =>
      simp [issue, hd, opInit, opFlush, opFlushCooperative, opSetDrawArea, opSetRotation, opTurnOn, opTurnOff,
        startOperation] at h
      exact .inl ⟨d, _, rfl, rfl, by simp, by simp, h.symm⟩

/-- The event a call appends to the trace, by its answer. -/
def calledWith (c : Call) (ev : Answer → Event) (s : State) (d : Driver) : Prop :=
  match c with
  | .dcCommand => ev = .dcSet s.cfg.dcCommandLevel
  | .busCommand => ∃ b, s.cmdbuf = some b ∧ ev = .busWrite b.wire
  | .dcData => ev = .dcSet s.cfg.dcDataLevel
  | .busData => ev = .busWrite d.fb.bytes
  | .rstSet l => ev = .rstSet l
  | .delay => ev = fun _ => .delayMs s.cfg.resetDelayMs

/-- What a capability call can do: it never answers (or has no Command to write), it answers `ok`, the delay returns, it
answers `error`. -/
def Performs (d : Driver) (c : Call) (s : State) : Prop :=
    (∃ f, performCall d c s = .stuck f ∧
      (f = .capabilityNeverAnswers ∧ (c = .delay → s.delays.head = false) ∧ (c ≠ .delay → s.answers.head = none) ∨
        f = .noCommandEncoded ∧ c = .busCommand ∧ s.cmdbuf = none)) ∨
    (∃ ev, calledWith c ev s d ∧ c ≠ .delay ∧ s.answers.head = some .ok ∧
      performCall d c s = .ok (advance { s with
        trace := s.trace ++ [ev .ok]
        answers := s.answers.tail
        cmdbuf := if c = .busCommand then none else s.cmdbuf })) ∨
    (c = .delay ∧ s.delays.head = true ∧ performCall d c s = .ok (advance { s with
      trace := s.trace ++ [.delayMs s.cfg.resetDelayMs]
      delays := s.delays.tail })) ∨
    (∃ ev e kind, calledWith c ev s d ∧ c ≠ .delay ∧ s.answers.head = some (.error e) ∧
      (ev .ok).failureKind e = some kind ∧ performCall d c s = .failed { s with
        trace := s.trace ++ [ev (.error e)]
        answers := s.answers.tail
        cmdbuf := none
        op := none
        reply := some (.failure kind) })

theorem performs_try (d : Driver) (c : Call) (s : State) (ev : Answer → Event) (kind : ErrorValue → Failure)
    (hk : ∀ e, (ev .ok).failureKind e = some (kind e)) (hc : calledWith c ev s d) (hcd : c ≠ .delay)
    (hp : performCall d c s = (tryCall ev kind s).andThen fun t =>
      .ok (advance (if c = .busCommand then { t with cmdbuf := none } else t))) : Performs d c s := by
  match ha : s.answers.head with
  | none =>
    rw [tryCall_never _ _ _ ha] at hp
    exact .inl ⟨_, hp, .inl ⟨rfl, fun h => absurd h hcd, fun _ => ha⟩⟩
  | some .ok =>
    rw [tryCall_ok _ _ _ ha] at hp
    refine .inr (.inl ⟨ev, hc, hcd, ha, ?_⟩)
    rw [hp]; simp only [Tried.andThen]; split <;> rfl
  | some (.error e) =>
    rw [tryCall_error _ _ _ e ha] at hp
    exact .inr (.inr (.inr ⟨ev, e, kind e, hc, hcd, ha, hk e, by rw [hp]; rfl⟩))

/-- Everything a capability call can do. -/
theorem performCall_cases (d : Driver) (c : Call) (s : State) : Performs d c s := by
  cases c with
  | delay =>
    cases h : s.delays.head with
    | false =>
      exact .inl ⟨_, by simp [performCall, delayMs, h, Tried.andThen],
        .inl ⟨rfl, fun _ => h, fun hn => absurd rfl hn⟩⟩
    | true =>
      exact .inr (.inr (.inl ⟨rfl, h, by simp [performCall, delayMs, h, Tried.andThen, emit]⟩))
  | busCommand =>
    cases h : s.cmdbuf with
    | none => exact .inl ⟨_, by simp [performCall, busCommand, h], .inr ⟨rfl, rfl, h⟩⟩
    | some b =>
      exact performs_try d _ s (.busWrite b.wire) .commFailure (fun e => rfl) ⟨b, h, rfl⟩ (by simp)
        (by simp [performCall, busCommand, h, busWrite])
  | dcCommand => exact performs_try d _ s _ .pinFailure (fun e => rfl) rfl (by simp) (by simp [performCall, dcCommand, dcSet])
  | dcData => exact performs_try d _ s _ .pinFailure (fun e => rfl) rfl (by simp) (by simp [performCall, dcSet])
  | busData => exact performs_try d _ s _ .commFailure (fun e => rfl) rfl (by simp) (by simp [performCall, busWrite])
  | rstSet l => exact performs_try d _ s _ .pinFailure (fun e => rfl) rfl (by simp) (by simp [performCall, rstSet])

/-- Everything the end check can do. -/
theorem finish_cases (s : State) : finish s = s ∨
    (∃ r d, s.op = some r ∧ s.driver = some d ∧ (microSteps s.cfg d.rot r.op).length ≤ r.seq ∧
      finish s = endOperation .ok s) := by
  cases hr : s.op with
  | none => exact .inl (finish_idle s hr)
  | some r =>
    cases hd : s.driver with
    | none => exact .inl (by simp [finish, hr, hd])
    | some d =>
      by_cases h : (microSteps s.cfg d.rot r.op).length ≤ r.seq
      · exact .inr ⟨r, d, rfl, rfl, h, finish_done s r d hr hd h⟩
      · exact .inl (finish_before s r d hr hd (by omega))

@[simp] theorem finish_cfg (s : State) : (finish s).cfg = s.cfg := by
  rcases finish_cases s with h | ⟨_, _, _, _, _, h⟩ <;> simp [h]
@[simp] theorem finish_driver (s : State) : (finish s).driver = s.driver := by
  rcases finish_cases s with h | ⟨_, _, _, _, _, h⟩ <;> simp [h]
@[simp] theorem finish_others (s : State) : (finish s).others = s.others := by
  rcases finish_cases s with h | ⟨_, _, _, _, _, h⟩ <;> simp [h]
@[simp] theorem finish_requests (s : State) : (finish s).requests = s.requests := by
  rcases finish_cases s with h | ⟨_, _, _, _, _, h⟩ <;> simp [h]
@[simp] theorem finish_answers (s : State) : (finish s).answers = s.answers := by
  rcases finish_cases s with h | ⟨_, _, _, _, _, h⟩ <;> simp [h]
@[simp] theorem finish_delays (s : State) : (finish s).delays = s.delays := by
  rcases finish_cases s with h | ⟨_, _, _, _, _, h⟩ <;> simp [h]
@[simp] theorem finish_trace (s : State) : (finish s).trace = s.trace := by
  rcases finish_cases s with h | ⟨_, _, _, _, _, h⟩ <;> simp [h]

/-- Everything the taking up of the host's next request can do. -/
theorem nextRequest_cases (s t : State) (h : nextRequest s = .next t) :
    (s.requests = [] ∧ t = s) ∨
    (∃ q rest, s.requests = q :: rest ∧ q.request.wf s.cfg = true ∧
      issue q.request { s with requests := rest } = .next t) := by
  unfold nextRequest at h
  match hq : s.requests with
  | [] => rw [hq] at h; cases h; exact .inl ⟨rfl, rfl⟩
  | q :: rest =>
    rw [hq] at h
    dsimp only at h
    split at h
    · exact .inr ⟨q, rest, rfl, ‹_›, h⟩
    · cases h

/-- Everything a step with a next state can do: nothing, a request, a bare `send`, or one micro-step. -/
theorem step_next_cases (s t : State) (h : step s = .next t) :
    (s.op = none ∧ s.requests = [] ∧ t = s) ∨
    (∃ q rest, (s.op = none ∨ ∃ r, s.op = some r ∧ leavesSuspended r s = true) ∧ s.requests = q :: rest ∧
      q.request.wf s.cfg = true ∧ issue q.request { s with requests := rest } = .next t) ∨
    (∃ r i u, s.op = some r ∧ r.op = .send ∧ r.seq = 0 ∧ fetchCommand s = some i ∧ exec i s = .next u ∧
      t = finish u) ∨
    (∃ r d, s.op = some r ∧ s.driver = some d ∧ ¬ (r.op = .send ∧ r.seq = 0) ∧ overlapping s = false ∧
      (((microSteps s.cfg d.rot r.op)[r.seq]? = none ∧ t = endOperation .ok s) ∨
        ∃ m, (microSteps s.cfg d.rot r.op)[r.seq]? = some m ∧ microStep r d m s = .next t)) := by
  cases hr : s.op with
  | none =>
    simp only [step, hr] at h
    rcases nextRequest_cases s t h with ⟨h1, h2⟩ | ⟨q, rest, h1, h2, h3⟩
    · exact .inl ⟨rfl, h1, h2⟩
    · exact .inr (.inl ⟨q, rest, .inl rfl, h1, h2, by rw [← hr]; exact h3⟩)
  | some r =>
    simp only [step, hr, continueOperation] at h
    split at h
    · rename_i hs
      simp only [runCommand] at h
      match hi : fetchCommand s with
      | none => rw [hi] at h; cases h
      | some i =>
        rw [hi] at h
        dsimp only at h
        match he : exec i s with
        | .next u => rw [he] at h; cases h; exact .inr (.inr (.inl ⟨r, i, u, rfl, hs.1, hs.2, rfl, he, rfl⟩))
        | .fault f => rw [he] at h; cases h
        | .refused f => rw [he] at h; cases h
    · rename_i hs
      split at h
      · rename_i hl
        rcases nextRequest_cases s t h with ⟨h1, h2⟩ | ⟨q, rest, h1, h2, h3⟩
        · simp [leavesSuspended, h1] at hl
        · exact .inr (.inl ⟨q, rest, .inr ⟨r, rfl, hl⟩, h1, h2, by rw [← hr]; exact h3⟩)
      split at h
      · cases h
      · rename_i ho
        simp only [walk] at h
        match hd : s.driver with
        | none => rw [hd] at h; cases h
        | some d =>
          rw [hd] at h
          dsimp only at h
          refine .inr (.inr (.inr ⟨r, d, rfl, rfl, hs, by simpa using ho, ?_⟩))
          match hm : (microSteps s.cfg d.rot r.op)[r.seq]? with
          | none => rw [hm] at h; cases h; exact .inl ⟨rfl, rfl⟩
          | some m => rw [hm] at h; exact .inr ⟨m, rfl, h⟩

/-- Everything a micro-step with a next state can do: the suspension of a cooperative `flush`, a call that answered `ok` or a
delay that returned, or a call that failed. -/
theorem microStep_next_cases (r : Running) (d : Driver) (m : MicroStep) (s t : State) (h : microStep r d m s = .next t) :
    (suspendsBefore r m = true ∧ t = { s with op := some { r with pending := true } }) ∨
    (∃ ev, calledWith m.call ev (prepare m s) d ∧ m.call ≠ .delay ∧ (prepare m s).answers.head = some .ok ∧
      t = finish (advance { prepare m s with
        trace := (prepare m s).trace ++ [ev .ok]
        answers := (prepare m s).answers.tail
        cmdbuf := if m.call = .busCommand then none else (prepare m s).cmdbuf })) ∨
    (m.call = .delay ∧ (prepare m s).delays.head = true ∧ t = finish (advance { prepare m s with
        trace := (prepare m s).trace ++ [.delayMs (prepare m s).cfg.resetDelayMs]
        delays := (prepare m s).delays.tail })) ∨
    (∃ ev e kind, calledWith m.call ev (prepare m s) d ∧ m.call ≠ .delay ∧
      (prepare m s).answers.head = some (.error e) ∧ (ev .ok).failureKind e = some kind ∧ t = { prepare m s with
        trace := (prepare m s).trace ++ [ev (.error e)]
        answers := (prepare m s).answers.tail
        cmdbuf := none
        op := none
        reply := some (.failure kind) }) := by
  simp only [microStep] at h
  split at h
  · cases h; exact .inl ⟨‹_›, rfl⟩
  · rcases performCall_cases d m.call (prepare m s) with ⟨f, hf, -⟩ | ⟨ev, h1, h2, h3, h4⟩ | ⟨h1, h2, h3⟩ |
      ⟨ev, e, kind, h1, h2, h3, h4, h5⟩
    · rw [hf] at h; cases h
    · rw [h4] at h; cases h; exact .inr (.inl ⟨ev, h1, h2, h3, rfl⟩)
    · rw [h3] at h; cases h; exact .inr (.inr (.inl ⟨h1, h2, rfl⟩))
    · rw [h5] at h; cases h; exact .inr (.inr (.inr ⟨ev, e, kind, h1, h2, h3, h4, rfl⟩))

@[simp] theorem prepare_cfg (m : MicroStep) (s : State) : (prepare m s).cfg = s.cfg := by
  rcases m with ⟨_ | r, _ | i, c⟩ <;> rfl
@[simp] theorem prepare_others (m : MicroStep) (s : State) : (prepare m s).others = s.others := by
  rcases m with ⟨_ | r, _ | i, c⟩ <;> rfl
@[simp] theorem prepare_op (m : MicroStep) (s : State) : (prepare m s).op = s.op := by
  rcases m with ⟨_ | r, _ | i, c⟩ <;> rfl
@[simp] theorem prepare_requests (m : MicroStep) (s : State) : (prepare m s).requests = s.requests := by
  rcases m with ⟨_ | r, _ | i, c⟩ <;> rfl
@[simp] theorem prepare_answers (m : MicroStep) (s : State) : (prepare m s).answers = s.answers := by
  rcases m with ⟨_ | r, _ | i, c⟩ <;> rfl
@[simp] theorem prepare_delays (m : MicroStep) (s : State) : (prepare m s).delays = s.delays := by
  rcases m with ⟨_ | r, _ | i, c⟩ <;> rfl
@[simp] theorem prepare_trace (m : MicroStep) (s : State) : (prepare m s).trace = s.trace := by
  rcases m with ⟨_ | r, _ | i, c⟩ <;> rfl
@[simp] theorem prepare_reply (m : MicroStep) (s : State) : (prepare m s).reply = s.reply := by
  rcases m with ⟨_ | r, _ | i, c⟩ <;> rfl

/-- A micro-step's stores change `ROT` alone of the instance. -/
theorem prepare_driver (m : MicroStep) (s : State) (d : Driver) (hd : s.driver = some d) :
    (prepare m s).driver = some { d with rot := m.store.getD d.rot } := by
  rcases m with ⟨_ | r, _ | i, c⟩ <;> simp [prepare, storeRotation, loadCommand, hd]

/-- A micro-step's stores put its Command in `CMDBUF`. -/
theorem prepare_cmdbuf (m : MicroStep) (s : State) : (prepare m s).cmdbuf = match m.load with
    | none => s.cmdbuf
    | some i => some (CmdBuf.ofWire s.cfg.cmdArraySize (encode s.cfg i)) := by
  rcases m with ⟨_ | r, _ | i, c⟩ <;> rfl

end Sys2Proof.Machine
end

