-- ==== Sys2Proof/Laws/Instances.lean ====
section
/-! SUPPORT. Several instances (10_state.md R24): which are living, turning from one to another, what a request is refused for,
and that no step touches the others. -/

namespace Sys2Proof.Machine

/-- The first entry that a search finds is the one that a removal by the same test takes out. -/
theorem find_cons_eraseP_perm (is : List Instance) (p : Instance → Bool) (i : Instance) (hf : is.find? p = some i) :
    (i :: is.eraseP p).Perm is := by
  induction is with
  | nil => cases hf
  | cons x xs ih =>
    by_cases hx : p x = true
    · simp [List.find?, hx] at hf; subst hf; rw [List.eraseP_cons_of_pos hx]
    · rw [List.eraseP_cons_of_neg hx]
      simp only [List.find?, hx] at hf
      exact (List.Perm.swap _ _ _).trans ((ih hf).cons _)

/-- Where each transport is held once, a living instance is found by its own. -/
theorem find_by_transport (is : List Instance) (i : Instance) (hn : (is.map fun j => j.driver.bus).Nodup) (h : i ∈ is) :
    is.find? (Instance.holds i.driver.bus) = some i := by
  induction is with
  | nil => cases h
  | cons x xs ih =>
    simp only [List.map_cons, List.nodup_cons] at hn
    rcases List.mem_cons.1 h with rfl | h'
    · simp [List.find?, Instance.holds]
    · have : Instance.holds i.driver.bus x = false := by
        simp only [Instance.holds, beq_eq_false_iff_ne]
        exact fun hb => hn.1 (List.mem_map.2 ⟨i, h', hb.symm⟩)
      simp only [List.find?, this]
      exact ih hn.2 h'

/-- Turning to an instance makes and ends none. -/
theorem takeUp_instances_perm (s : State) (a : Handle) (i : Instance)
    (hf : (setAside s).others.find? (Instance.holds a) = some i) :
    (takeUp i (setAside s)).instances.Perm s.instances := by
  rw [← setAside_others_drivers s]
  have h := (find_cons_eraseP_perm _ _ _ hf).map Instance.driver
  rw [← (find_holds _ _ _ hf).2] at h
  simpa [State.instances] using h

/-- No request faults when it is taken up. -/
theorem issue_ne_fault (q : Request) (s : State) (f : Fault) : issue q s ≠ .fault f := by
  intro h
  cases q with
  | new a b r => simp only [issue, opNew] at h; split at h <;> cases h
  | reset line delay => simp only [issue, opReset, startOperation] at h; split at h <;> (try split at h) <;> cases h
  | turnTo a => simp only [issue, opTurnTo] at h; split at h <;> cases h
  | setPixel x y c =>
    simp only [issue, opSetPixel] at h
    split at h
    · cases h
    · rename_i d hd
      split at h
      · rename_i hb
        obtain ⟨m, hm⟩ := Option.isSome_iff_exists.mp ((Memory.write_isSome d.fb (byteIndex d.rot x y) (pixelBytes c)).2
          (by simpa using inBounds_byteIndex _ _ _ hb))
        simp [hm] at h
      · cases h
  | _ =>
    cases hd : s.driver <;> simp [issue, hd, opInit, opClear, opFlush, opFlushCooperative, opSetDrawArea,
      opDimensions, opSetRotation, opRotation, opTurnOn, opTurnOff, opRelease, startOperation] at h

/-- A line that no instance holds can be lent. -/
theorem opReset_free (line delay : Handle) (s : State) (h : s.lineFree line) :
    opReset line delay s = startOperation (.reset line delay) s := by
  rw [opReset, (lineInUse_iff line s).2 h]; simp

/-- A line that a living instance holds cannot. -/
theorem opReset_held (line delay : Handle) (s : State) (d : Driver) (hd : s.driver = some d) (h : ¬ s.lineFree line) :
    opReset line delay s = .refused .handleInUse := by
  rw [← lineInUse_iff, Bool.not_eq_false] at h
  rw [opReset, h]; simp [hd]

/-- Everything a well-typed request can be refused for. -/
theorem issue_refused_cases (q : Request) (s : State) (f : Refusal) (h : issue q s = .refused f) :
    (f = .noDriver ∧ (s.driver = none ∨ ∃ a, q = .turnTo a ∧ ∀ d, d ∈ s.instances → d.bus ≠ a)) ∨
    (f = .handleInUse ∧ ((∃ a b r, q = .new a b r ∧ ¬ s.unheld a b) ∨
      ∃ line delay, q = .reset line delay ∧ s.driver.isSome ∧ ¬ s.lineFree line)) := by
  cases q with
  | new a b r =>
    simp only [issue, opNew] at h
    split at h
    · rename_i hu; cases h
      exact .inr ⟨rfl, .inl ⟨a, b, r, rfl, by rw [← handleInUse_iff, hu]; simp⟩⟩
    · cases h
  | reset line delay =>
    simp only [issue, opReset] at h
    split at h
    · rename_i hu; cases h
      simp only [Bool.and_eq_true] at hu
      exact .inr ⟨rfl, .inr ⟨line, delay, rfl, hu.1, by rw [← lineInUse_iff, hu.2]; simp⟩⟩
    · cases hd : s.driver <;> simp [startOperation, hd] at h
      exact .inl ⟨h.symm, .inl rfl⟩
  | turnTo a =>
    simp only [issue, opTurnTo] at h
    split at h
    · rename_i hn; cases h
      refine .inl ⟨rfl, .inr ⟨a, rfl, ?_⟩⟩
      cases hd : s.driver with
      | none => rw [setAside_none s hd] at hn; simpa [State.instances, hd, Instance.holds] using hn
      | some d => rw [setAside_some s d hd] at hn; simpa [State.instances, hd, Instance.holds] using hn
    · cases h
  | setPixel x y c =>
    simp only [issue, opSetPixel] at h
    split at h
    · rename_i hd; cases h; exact .inl ⟨rfl, .inl hd⟩
    · split at h <;> (try split at h) <;> cases h
  | _ =>
    cases hd : s.driver <;> simp [issue, hd, opInit, opClear, opFlush, opFlushCooperative, opSetDrawArea,
      opDimensions, opSetRotation, opRotation, opTurnOn, opTurnOff, opRelease, startOperation] at h <;> simp [← h]

theorem exec_others (i : Instr) (s t : State) (h : exec i s = .next t) : t.others = s.others := by
  rw [exec_eq_send] at h
  cases hd : s.driver with
  | none => simp [send, hd] at h
  | some d =>
    rcases send_cases (encode s.cfg i) s d hd with h1 | ⟨e, h1, h2⟩ | ⟨e, h1, h2, h3⟩ | ⟨h1, h2, h3⟩ <;>
      simp_all <;> subst h <;> rfl

theorem microStep_others (r : Running) (d : Driver) (m : MicroStep) (s t : State) (h : microStep r d m s = .next t) :
    t.others = s.others := by
  rcases microStep_next_cases _ _ _ _ _ h with ⟨_, rfl⟩ | ⟨_, _, _, _, rfl⟩ | ⟨_, _, rfl⟩ | ⟨_, _, _, _, _, _, _, rfl⟩ <;>
    simp

end Sys2Proof.Machine
end

