-- ==== Sys2Proof/Laws/Lists.lean ====
section
/-! SUPPORT. The shape of the lists of micro-steps: the calls in order, where the stores stand, and that the list of an
operation does not depend on what the operation does to `ROT`. -/

namespace Sys2Proof.Machine

/-- The calls of each operation in order, which no parameter changes. -/
def callsOf : Operation → List Call
  | .send => [.dcCommand, .busCommand]
  | .setRotation _ => [.dcCommand, .busCommand]
  | .setDrawArea _ _ _ _ => [.dcCommand, .busCommand, .dcCommand, .busCommand]
  | .flush => [.dcCommand, .busCommand, .dcCommand, .busCommand, .dcData, .busData]
  | .flushCooperative => [.dcCommand, .busCommand, .dcCommand, .busCommand, .dcData, .busData]
  | .reset _ _ => [.rstSet .high, .delay, .rstSet .low, .delay, .rstSet .high]
  | .init => (List.replicate 12 [Call.dcCommand, Call.busCommand]).flatten
  | .turnOn => [.dcCommand, .busCommand]
  | .turnOff => [.dcCommand, .busCommand]

theorem calls_eq (cfg : Config) (rot : Rotation) (op : Operation) :
    (microSteps cfg rot op).map MicroStep.call = callsOf op := by
  cases op <;> rfl

theorem call_at (cfg : Config) (rot : Rotation) (op : Operation) (k : Nat) :
    ((microSteps cfg rot op)[k]?).map MicroStep.call = (callsOf op)[k]? := by
  rw [← calls_eq cfg rot op]; simp

/-- Inside an operation a Command is loaded by exactly the micro-steps that drive the line to the command level. -/
theorem loads_eq (cfg : Config) (rot : Rotation) (op : Operation) (h : op ≠ .send) :
    (microSteps cfg rot op).map (fun m => m.load.isSome) = (callsOf op).map (fun c => decide (c = .dcCommand)) := by
  cases op <;> first | rfl | exact absurd rfl h

/-- A Command's write follows its line, and nothing else comes between; no list starts with a write; the data write of a
cooperative `flush` is its sixth micro-step. -/
theorem calls_shape (op : Operation) (k : Nat) :
    ((callsOf op)[k + 1]? = some .busCommand ↔ (callsOf op)[k]? = some .dcCommand) ∧
      (callsOf op)[0]? ≠ some .busCommand ∧
      (op = .flushCooperative → (callsOf op)[k]? = some .busData → k = 5) := by
  by_cases hk : k < 24
  · have h : ∀ k, k < 24 → ((callsOf op)[k + 1]? = some .busCommand ↔ (callsOf op)[k]? = some .dcCommand) ∧
        (callsOf op)[0]? ≠ some .busCommand ∧
        (op = .flushCooperative → (callsOf op)[k]? = some .busData → k = 5) := by
      cases op <;> simp only [callsOf] <;> simp <;> decide
    exact h k hk
  · have hl : (callsOf op).length ≤ 24 := by cases op <;> simp [callsOf]
    have h1 : (callsOf op)[k]? = none := by simp; omega
    have h2 : (callsOf op)[k + 1]? = none := by simp; omega
    refine ⟨by simp [h1, h2], ?_, by simp [h1]⟩
    cases op <;> simp [callsOf]

/-- `ROT` is stored by `set_rotation(r)` with `r`, and by step 6 of `init()` with the value it has. -/
theorem store_only (cfg : Config) (rot r : Rotation) (op : Operation) (m : MicroStep) (k : Nat)
    (h : (microSteps cfg rot op)[k]? = some m) (hs : m.store = some r) :
    op = .setRotation r ∨ (op = .init ∧ r = rot) := by
  have hall : ∀ m ∈ microSteps cfg rot op, ∀ r, m.store = some r → op = .setRotation r ∨ (op = .init ∧ r = rot) := by
    cases op <;> simp [microSteps, setRotationSteps, windowSteps, sendSteps, flushSteps, resetSteps, initSteps,
      MicroStep.of, initBefore, initAfter]
  exact hall m (List.mem_of_getElem? h) r hs

/-- Only the list of `init()` depends on `ROT`. -/
theorem microSteps_rot (cfg : Config) (rot rot' : Rotation) (op : Operation) (h : op ≠ .init) :
    microSteps cfg rot op = microSteps cfg rot' op := by
  cases op <;> first | rfl | exact absurd rfl h

/-- The list of the operation in progress is the same after a micro-step's store. -/
theorem microSteps_store (cfg : Config) (rot : Rotation) (op : Operation) (m : MicroStep) (k : Nat)
    (h : (microSteps cfg rot op)[k]? = some m) :
    microSteps cfg (m.store.getD rot) op = microSteps cfg rot op := by
  cases hs : m.store with
  | none => rfl
  | some r =>
    rcases store_only _ _ _ _ _ _ h hs with h1 | ⟨-, h2⟩
    · exact microSteps_rot _ _ _ _ (by simp [h1])
    · simp [h2]

end Sys2Proof.Machine
end

