-- ==== Sys2Proof/Laws/PerInstr.lean ====
section
/-! SUPPORT. Statements made for each Command: its wire length (30_encoding.md R51, R52, R57) under every configuration. -/

namespace Sys2Proof.Laws.WireLength

/-- The wire bytes of the Command are as many as its row of the opcode map says, 1 to 11, whatever the operands. -/
def Statement (i : Instr) : Prop :=
  ∀ cfg : Config, (encode cfg i).length = i.opcode.wireLen ∧ 1 ≤ i.opcode.wireLen ∧ i.opcode.wireLen ≤ MAX_WIRE_LEN

theorem contrast (r g b : Byte) : Statement (.contrast r g b) :=
  fun cfg => ⟨encode_length cfg _, Opcode.wireLen_range _⟩
theorem columnAddress (a b : Byte) : Statement (.columnAddress a b) :=
  fun cfg => ⟨encode_length cfg _, Opcode.wireLen_range _⟩
theorem rowAddress (a b : Byte) : Statement (.rowAddress a b) :=
  fun cfg => ⟨encode_length cfg _, Opcode.wireLen_range _⟩
theorem remapAndColorDepth (h v : Bool) (m : ColourMode) (i : AddrIncMode) : Statement (.remapAndColorDepth h v m i) :=
  fun cfg => ⟨encode_length cfg _, Opcode.wireLen_range _⟩
theorem displayClockDiv (a b : Byte) : Statement (.displayClockDiv a b) :=
  fun cfg => ⟨encode_length cfg _, Opcode.wireLen_range _⟩
theorem preChargePeriod (a b : Byte) : Statement (.preChargePeriod a b) :=
  fun cfg => ⟨encode_length cfg _, Opcode.wireLen_range _⟩
theorem drawLine (c1 r1 c2 r2 : Byte) (c : Colour) : Statement (.drawLine c1 r1 c2 r2 c) :=
  fun cfg => ⟨encode_length cfg _, Opcode.wireLen_range _⟩
theorem drawRect (c1 r1 c2 r2 : Byte) (o f : Colour) : Statement (.drawRect c1 r1 c2 r2 o f) :=
  fun cfg => ⟨encode_length cfg _, Opcode.wireLen_range _⟩
theorem displayOnTrue : Statement (.displayOnTrue) :=
  fun cfg => ⟨encode_length cfg _, Opcode.wireLen_range _⟩
theorem displayOnFalse : Statement (.displayOnFalse) :=
  fun cfg => ⟨encode_length cfg _, Opcode.wireLen_range _⟩
theorem multiplex (a : Byte) : Statement (.multiplex a) :=
  fun cfg => ⟨encode_length cfg _, Opcode.wireLen_range _⟩
theorem startLine (a : Byte) : Statement (.startLine a) :=
  fun cfg => ⟨encode_length cfg _, Opcode.wireLen_range _⟩
theorem displayOffset (a : Byte) : Statement (.displayOffset a) :=
  fun cfg => ⟨encode_length cfg _, Opcode.wireLen_range _⟩
theorem vcomhDeselect (a : Byte) : Statement (.vcomhDeselect a) :=
  fun cfg => ⟨encode_length cfg _, Opcode.wireLen_range _⟩
theorem allOnTrue : Statement (.allOnTrue) :=
  fun cfg => ⟨encode_length cfg _, Opcode.wireLen_range _⟩
theorem allOnFalse : Statement (.allOnFalse) :=
  fun cfg => ⟨encode_length cfg _, Opcode.wireLen_range _⟩
theorem invertTrue : Statement (.invertTrue) :=
  fun cfg => ⟨encode_length cfg _, Opcode.wireLen_range _⟩
theorem invertFalse : Statement (.invertFalse) :=
  fun cfg => ⟨encode_length cfg _, Opcode.wireLen_range _⟩

end Sys2Proof.Laws.WireLength
end

