-- ==== Sys2Proof/Tests/Slice0.lean ====
section
/-! SUPPORT. The model's own tests. Expected values come from the encodings of 30_encoding.md, the patterns of opcode_table.json
and the vectors of 95_test_vectors.md, named beside each test; then one witness for each obligation that has hypotheses. -/

namespace Sys2Proof.Machine.Tests

/-! ## Well-formedness refuses: one ill-formed term for each check -/

theorem test_default_record_wf : Config.default.wf = true := by decide

theorem test_record_first_bytes_distinct :
    Config.wf { Config.default with opcStartLine := 0xA0#8 } = false := by decide

theorem test_record_increment_codes_differ : Config.wf { Config.default with incVerticalCode := 0 } = false := by decide

theorem test_record_delay_at_least_one : Config.wf { Config.default with resetDelayMs := 0 } = false := by decide

theorem test_record_delay_at_most_ten : Config.wf { Config.default with resetDelayMs := 11 } = false := by decide

theorem test_record_rotation_table_modes :
    Config.wf { Config.default with rotTable := { RotTable.default with rot90 := ⟨true, false, .horizontal⟩ } } = false := by
  decide

theorem test_record_array_holds_longest : Config.wf { Config.default with cmdArraySize := 10 } = false := by decide

theorem test_clock_operand_too_wide : Instr.wf (.displayClockDiv 0x10#8 0#8) = false := by decide

theorem test_clock_second_operand_too_wide : Instr.wf (.displayClockDiv 0#8 0x10#8) = false := by decide

theorem test_precharge_operand_too_wide : Instr.wf (.preChargePeriod 0x10#8 0#8) = false := by decide

theorem test_precharge_second_operand_too_wide : Instr.wf (.preChargePeriod 0#8 0x10#8) = false := by decide

theorem test_level_too_wide : Instr.wf (.vcomhDeselect 0x20#8) = false := by decide

theorem test_x_too_wide : Request.wf Config.default (.setPixel 4294967296 0 0#16) = false := by decide

theorem test_y_too_wide : Request.wf Config.default (.setPixel 0 4294967296 0#16) = false := by decide

/-! ## Decoding: one word for each row of opcode_table.json, written out from its bit pattern -/

/-- 10000001 rrrrrrrr 10000010 gggggggg 10000011 bbbbbbbb. -/
theorem test_decode_contrast : decodeTableWord 48 0b100000010000000110000010111111111000001101010101 =
    some (.contrast 1#8 255#8 85#8) := by decide

/-- 00010101 ssssssss eeeeeeee. -/
theorem test_decode_columnAddress : decodeTableWord 24 0b000101010000101000011110 =
    some (.columnAddress 10#8 30#8) := by decide

/-- 01110101 ssssssss eeeeeeee. -/
theorem test_decode_rowAddress : decodeTableWord 24 0b011101010001010000101000 = some (.rowAddress 20#8 40#8) := by decide

/-- 10100000 0m1v00hi with m, v, h, i = 0, 1, 0, 1 (V-RMP-7). -/
theorem test_decode_remap : decodeTableWord 16 0b1010000000110001 =
    some (.remapAndColorDepth false true .cm65k .vertical) := by decide

/-- The same with m, v, h, i = 1, 0, 1, 0 (V-RMP-10). -/
theorem test_decode_remap_mode : decodeTableWord 16 0b1010000001100010 =
    some (.remapAndColorDepth true false .cm256 .horizontal) := by decide

/-- 10110011 oooodddd (V-CLK-2). -/
theorem test_decode_displayClockDiv : decodeTableWord 16 0b1011001100010010 = some (.displayClockDiv 1#8 2#8) := by decide

/-- 10110001 qqqqpppp, the SECOND operand high (V-PRE-2). -/
theorem test_decode_preChargePeriod : decodeTableWord 16 0b1011000100100001 = some (.preChargePeriod 1#8 2#8) := by decide

/-- V-LIN-2: 00100001, four raw bytes, 00RRRRR0 00GGGGGG 00BBBBB0 of 0x1234. -/
theorem test_decode_drawLine :
    decodeTableWord 64 0b0010000100000001000000100000001100000100000001000001000100101000 =
    some (.drawLine 1#8 2#8 3#8 4#8 0x1234#16) := by decide

/-- V-REC-3. -/
theorem test_decode_drawRect : decodeTableWord 88 0x220A141E28003F00202020 =
    some (.drawRect 10#8 20#8 30#8 40#8 0x07E0#16 0x8410#16) := by decide

theorem test_decode_displayOnTrue : decodeTableWord 8 0b10101111 = some .displayOnTrue := by decide

theorem test_decode_displayOnFalse : decodeTableWord 8 0b10101110 = some .displayOnFalse := by decide

theorem test_decode_multiplex : decodeTableWord 16 0b1010100000111111 = some (.multiplex 63#8) := by decide

theorem test_decode_startLine : decodeTableWord 16 0b1010000110000000 = some (.startLine 0x80#8) := by decide

theorem test_decode_displayOffset : decodeTableWord 16 0b1010001011111111 = some (.displayOffset 0xFF#8) := by decide

/-- 10111110 00LLLLL0 (V-VCM-2). -/
theorem test_decode_vcomhDeselect : decodeTableWord 16 0b1011111000110000 = some (.vcomhDeselect 0x18#8) := by decide

theorem test_decode_allOnTrue : decodeTableWord 8 0b10100101 = some .allOnTrue := by decide

theorem test_decode_allOnFalse : decodeTableWord 8 0b10100110 = some .allOnFalse := by decide

theorem test_decode_invertTrue : decodeTableWord 8 0b10100111 = some .invertTrue := by decide

theorem test_decode_invertFalse : decodeTableWord 8 0b10100100 = some .invertFalse := by decide

/-- 30_encoding.md R56: an unknown first byte, a wrong fixed byte, remap bit 5 clear, a channel byte with bit 0 set, a level
byte with bit 7 set, too few bytes. -/
theorem test_decode_refuses :
    decode Config.default [0xE3#8] = none ∧
    decode Config.default [0x81#8, 1#8, 0x83#8, 2#8, 0x83#8, 3#8] = none ∧
    decode Config.default [0xA0#8, 0x00#8] = none ∧
    decode Config.default [0x21#8, 1#8, 2#8, 3#8, 4#8, 1#8, 0#8, 0#8] = none ∧
    decode Config.default [0xBE#8, 0x80#8] = none ∧
    decode Config.default [0x15#8, 1#8] = none := by decide

/-! ## Encoding: the vectors of T2 to T6 -/

/-- V-CON-4, V-COL-A4, V-ROW-A3. -/
theorem test_encode_raw :
    encode Config.default (.contrast 0x81#8 0x82#8 0x83#8) = [0x81#8, 0x81#8, 0x82#8, 0x82#8, 0x83#8, 0x83#8] ∧
    encode Config.default (.columnAddress 30#8 10#8) = [0x15#8, 0x1E#8, 0x0A#8] ∧
    encode Config.default (.rowAddress 64#8 255#8) = [0x75#8, 0x40#8, 0xFF#8] := by decide

/-- V-RMP-4 with the colour-mode code 0 and 1, V-RMP-13. -/
theorem test_encode_remap :
    encode Config.default (.remapAndColorDepth true true .cm65k .horizontal) = [0xA0#8, 0x32#8] ∧
    encode { Config.default with cm65kCode := 1 } (.remapAndColorDepth true true .cm65k .horizontal) = [0xA0#8, 0x72#8] ∧
    encode Config.default (.remapAndColorDepth false false .cm256 .vertical) = [0xA0#8, 0x61#8] := by decide

/-- V-CLK-4, V-PRE-4, V-VCM-4. -/
theorem test_encode_masks :
    encode Config.default (.displayClockDiv 0x1F#8 0x23#8) = [0xB3#8, 0xF3#8] ∧
    encode Config.default (.preChargePeriod 0x12#8 0x34#8) = [0xB1#8, 0x42#8] ∧
    encode Config.default (.vcomhDeselect 0xFF#8) = [0xBE#8, 0x3E#8] := by decide

/-- V-COL-4 (the colour that separates the two readings), V-COL-7, V-COL-9. -/
theorem test_encode_channels :
    channels 0x0400#16 = [0x00#8, 0x20#8, 0x00#8] ∧ channels 0x1234#16 = [0x04#8, 0x11#8, 0x28#8] ∧
    channels 0xABCD#16 = [0x2A#8, 0x1E#8, 0x1A#8] := by decide

/-- V-REC-1: the longest Command. -/
theorem test_encode_drawRect : encode Config.default (.drawRect 1#8 2#8 3#8 4#8 0xF800#16 0x001F#16) =
    [0x22#8, 1#8, 2#8, 3#8, 4#8, 0x3E#8, 0#8, 0#8, 0#8, 0#8, 0x3E#8] := by decide

/-! ## Single steps -/

/-- The instance after reset. -/
def fresh : Driver := { rot := .rot0, fb := [], bus := 0, dc := 1 }

/-- The reset state with these answers to come, and `ok` for ever after. -/
def answering (as : List (Option Answer)) : State :=
  { State.reset with answers := { upcoming := as, after := some .ok } }

/-- The reset state with the host about to make these requests. -/
def asking (qs : List Request) : State :=
  { State.reset with requests := qs.map fun q => { request := q, waits := true } }

/-- The reset state with an operation at its start. -/
def starting (op : Operation) : State := { State.reset with op := some { op := op, seq := 0, pending := false } }

/-- The trace of a next state. -/
def traceOf : Host.Outcome State Fault Refusal → List Event
  | .next s => s.trace
  | .fault _ => []
  | .refused _ => []

/-- The reply of a next state. -/
def replyOf : Host.Outcome State Fault Refusal → Option Reply
  | .next s => s.reply
  | .fault _ => none
  | .refused _ => none

/-- The framebuffer of a next state. -/
def memoryOf : Host.Outcome State Fault Refusal → Option Memory
  | .next s => s.driver.map Driver.fb
  | .fault _ => none
  | .refused _ => none

/-- V-SND-1. -/
theorem test_send_displayOn : traceOf (exec .displayOnTrue State.reset) =
    [.dcSet .low .ok, .busWrite [0xAF#8] .ok] := by decide

/-- V-SND-2. -/
theorem test_send_contrast : traceOf (exec (.contrast 1#8 2#8 3#8) State.reset) =
    [.dcSet .low .ok, .busWrite [0x81#8, 1#8, 0x82#8, 2#8, 0x83#8, 3#8] .ok] := by decide

/-- V-SND-3. -/
theorem test_send_line_fails : traceOf (exec (.startLine 0#8) (answering [some (.error 7)])) = [.dcSet .low (.error 7)] ∧
    replyOf (exec (.startLine 0#8) (answering [some (.error 7)])) = some (.failure (.pinFailure 7)) := by decide

/-- V-SND-4. -/
theorem test_send_write_fails : traceOf (exec (.startLine 0#8) (answering [some .ok, some (.error 7)])) =
      [.dcSet .low .ok, .busWrite [0xA1#8, 0#8] (.error 7)] ∧
    replyOf (exec (.startLine 0#8) (answering [some .ok, some (.error 7)])) = some (.failure (.commFailure 7)) := by decide

/-- A placed word runs whole in one step. -/
theorem test_placed_word_runs : traceOf (step (State.reset.withFetchWord 16 0xB112)) =
      [.dcSet .low .ok, .busWrite [0xB1#8, 0x12#8] .ok] ∧
    replyOf (step (State.reset.withFetchWord 16 0xB112)) = some .ok := by decide

/-- V-ROT-2, the first of its two micro-steps: `ROT` is stored, the line is driven, the Command waits in `CMDBUF`. -/
theorem test_setRotation_first : step (starting (.setRotation .rot90)) = .next { starting (.setRotation .rot90) with
    driver := some { fresh with rot := .rot90 }
    op := some { op := .setRotation .rot90, seq := 1, pending := false }
    cmdbuf := some { bytes := [0xA0#8, 0x23#8, 0#8, 0#8, 0#8, 0#8, 0#8, 0#8, 0#8, 0#8, 0#8], len := 2 }
    trace := [.dcSet .low .ok] } := rfl

/-- V-PIX-3. -/
theorem test_pixel_rot0 : memoryOf (step (asking [.setPixel 10 5 0xABCD#16])) = some [(980, 0xAB#8), (981, 0xCD#8)] := by
  decide

/-- V-PIX-17: the high byte is 0x00, which the canonical form does not list. -/
theorem test_pixel_zero_high : memoryOf (step (asking [.setPixel 5 10 0x0001#16])) = some [(1931, 0x01#8)] := by decide

/-- V-PIX-6, V-PIX-7, V-PIX-16. -/
theorem test_pixel_dropped : memoryOf (step (asking [.setPixel 96 0 0xFFFF#16])) = some [] ∧
    memoryOf (step (asking [.setPixel 0 64 0xFFFF#16])) = some [] ∧
    memoryOf (step (asking [.setPixel 4294967295 4294967295 0xFFFF#16])) = some [] := by decide

/-- V-PIX-10, V-PIX-12, V-PIX-13, V-PIX-14, V-PIX-15: the bounds and the index of `Rot90`. -/
theorem test_bounds_rot90 : inBounds .rot90 63 95 = true ∧ byteIndex .rot90 63 95 = 12286 ∧
    inBounds .rot90 64 0 = false ∧ inBounds .rot90 0 96 = false ∧ byteIndex .rot90 0 64 = 8192 ∧
    inBounds .rot90 70 10 = false := by decide

/-- V-DIM-1, V-GET-1. -/
theorem test_reports : replyOf (step (asking [.dimensions])) = some (.dims 96 64) ∧
    replyOf (step (asking [.rotation])) = some (.rotationIs .rot0) := by decide

/-- V-RST-1, the first of its micro-steps. -/
theorem test_reset_first : traceOf (step (starting (.reset 5 6))) = [.rstSet .high .ok] := by decide

/-- V-INI-1 to V-INI-4: the twelve payloads, of which only the sixth depends on the rotation. -/
theorem test_init_payloads : (initCommands Config.default .rot0).map (encode Config.default) =
      [[0xAE#8], [0xB3#8, 0xF0#8], [0xA8#8, 0x3F#8], [0xA1#8, 0#8], [0xA2#8, 0#8], [0xA0#8, 0x20#8]] ++
      [[0x81#8, 0x91#8, 0x82#8, 0x50#8, 0x83#8, 0x7D#8], [0xB1#8, 0x31#8], [0xBE#8, 0x3E#8], [0xA6#8], [0xA4#8],
        [0xAF#8]] ∧
    encode Config.default (remapCommand Config.default .rot90) = [0xA0#8, 0x23#8] ∧
    encode Config.default (remapCommand Config.default .rot180) = [0xA0#8, 0x32#8] ∧
    encode Config.default (remapCommand Config.default .rot270) = [0xA0#8, 0x31#8] := by decide

/-- The lists of the sequencer are those Commands (43_init_sequencer.md R127). -/
theorem test_init_list (cfg : Config) (rot : Rotation) :
    (microSteps cfg rot .init).filterMap MicroStep.load = initCommands cfg rot := rfl

/-- 70_reset_and_hazards.md R166: a failed remap write leaves nothing known. -/
theorem test_knownRemap : knownRemap [.busWrite [0xA0#8, 0x23#8] .ok, .busWrite [0xA1#8, 0#8] .ok] = some 0x23#8 ∧
    knownRemap [.busWrite [0xA0#8, 0x23#8] .ok, .busWrite [0xA0#8, 0x20#8] (.error 1)] = none ∧
    knownRemap [.busWrite [0xA0#8, 0x23#8] .ok, .rstSet .low .ok] = none ∧
    knownRemap [.busWrite [0xA0#8, 0x23#8] .ok, .rstSet .high (.error 1)] = none := by decide

/-- 60_exceptions.md R152: a failed write may have delivered any leading part. -/
theorem test_mayDeliver : mayDeliver (.busWrite [1#8, 2#8] (.error 3)) [1#8] ∧
    ¬ mayDeliver (.busWrite [1#8, 2#8] .ok) [1#8] := by
  constructor
  · exact ⟨[2#8], rfl⟩
  · intro h; cases h

/-! ## Witnesses: for each obligation with hypotheses, a state and operands that meet them all -/

/-- ContrastGoesOutAsItsSixBytes, EveryCommandCompletes, SourcedCommandsRunToTheirBytes, DrawCommandsRunToTheirBytes,
SetupCommandsRunToTheirBytes, BooleanCommandsRunToTheirByte and the first clause of DataCommandLineFollowsTheCalls. -/
theorem test_witness_commands : State.reset.driver = some fresh ∧ State.reset.okFor 2 := ⟨rfl, fun _ _ => rfl⟩

/-- LengthFollowsFromTheFirstByte, DecodingMasksWhatTheEncodingDrops, EncodingIsInjectiveUpToMasking: each of the record. -/
theorem test_witness_record : Config.default.wf = true ∧
    Instr.masked (.vcomhDeselect 0x20#8) = Instr.masked (.vcomhDeselect 0#8) := by decide

/-- DecodingAnEncodedCommandGivesItBack: every operand at the top of its range. -/
theorem test_witness_decode : Config.default.wf = true ∧ Instr.wf (.displayClockDiv 15#8 15#8) = true ∧
    Instr.wf (.preChargePeriod 15#8 15#8) = true ∧ Instr.wf (.vcomhDeselect 31#8) = true := by decide

/-- EncodingADecodedCommandGivesItsBytesBack. -/
theorem test_witness_encode : decode Config.default [0xB3#8, 0xF0#8, 0x77#8] =
    some (.displayClockDiv 15#8 0#8, [0x77#8]) := by decide

/-- DecoderRejectsExactlyWhatNoEncodingStarts: both verdicts are given. -/
theorem test_witness_verdicts : Config.default.wf = true ∧ decode Config.default [] = none ∧
    decode Config.default [0xAF#8] ≠ none := by decide

/-- LineFailureKeepsACommandOffTheBus. -/
theorem test_witness_line_failure : (answering [some (.error 7)]).driver = some fresh ∧
    (answering [some (.error 7)]).answers.get 0 = some (.error 7) := ⟨rfl, rfl⟩

/-- WriteFailureEndsACommand. -/
theorem test_witness_write_failure : (answering [some .ok, some (.error 7)]).driver = some fresh ∧
    (answering [some .ok, some (.error 7)]).answers.get 0 = some .ok ∧
    (answering [some .ok, some (.error 7)]).answers.get 1 = some (.error 7) := ⟨rfl, rfl, rfl⟩

/-- CommandStopsOnlyForWantOfInstanceOrAnswer: each stop happens. -/
theorem test_witness_stops : exec .displayOnTrue { State.reset with driver := none } = .refused .noDriver ∧
    exec .displayOnTrue (answering [none]) = .fault .capabilityNeverAnswers ∧
    exec .displayOnTrue (answering [some .ok, none]) = .fault .capabilityNeverAnswers := ⟨rfl, rfl, rfl⟩

/-- EveryCommandLeavesTheBlockAlone, on its two paths to a next state. -/
theorem test_witness_frame : exec .displayOnTrue State.reset = .next (State.reset.sent [0xAF#8]) ∧
    ∃ t, exec .displayOnTrue (answering [some (.error 7)]) = .next t := ⟨rfl, _, rfl⟩

/-- StepRunsTheDecodedCommand. -/
theorem test_witness_step :
    (State.reset.withFetchWord 8 0xAF).op = some { op := .send, seq := 0, pending := false } ∧
    (State.reset.withFetchWord 8 0xAF).cmdbuf = some (fetchBuffer Config.default 8 0xAF) ∧
    decode Config.default (fetchBuffer Config.default 8 0xAF).wire = some (.displayOnTrue, []) := by decide

/-- PlacedTableWordRunsNext. -/
theorem test_witness_placed : State.reset.cfg = Config.default ∧ decodeTableWord 8 0xAF = some .displayOnTrue := by decide

/-- TwoMicroStepsOfACommandAreItsExec. -/
theorem test_witness_two_micro_steps : (starting .turnOn).driver = some fresh ∧
    (starting .turnOn).op = some { op := .turnOn, seq := 0, pending := false } ∧ (starting .turnOn).requests = [] ∧
    (microSteps Config.default .rot0 .turnOn)[0]? = some ⟨none, some .displayOnTrue, .dcCommand⟩ ∧
    (microSteps Config.default .rot0 .turnOn)[1]? = some ⟨none, none, .busCommand⟩ := ⟨rfl, rfl, rfl, rfl, rfl⟩

/-- OperationMakesItsWholeListAndReturnsOk and the second clause of DataCommandLineFollowsTheCalls: every operation can start
with every answer `ok`. -/
theorem test_witness_operation (op : Operation) : Starting (starting op) fresh op ∧
    (starting op).okFor (answersIn (operationTrace (starting op).cfg fresh op)) ∧
    (starting op).returnsFor (delaysIn (operationTrace (starting op).cfg fresh op)) :=
  ⟨⟨rfl, rfl, rfl⟩, fun _ _ => rfl, fun _ _ => rfl⟩

/-- The state of an operation at its start whose call number `n` that has an answer fails. -/
def failingAt (op : Operation) (n : Nat) : State :=
  { starting op with answers := { upcoming := List.replicate n (some .ok) ++ [some (.error 7)], after := some .ok } }

/-- FailingMicroStepEndsItsOperation and the third clause of DataCommandLineFollowsTheCalls: the first micro-step of
`turn_on`, the last of `reset` (after two delays) and the last of the cooperative `flush`. -/
theorem test_witness_failing :
    ((operationTrace Config.default fresh .turnOn)[0]? = some (.dcSet .low .ok) ∧
      Event.failureKind 7 (.dcSet .low .ok) = some (.pinFailure 7) ∧
      Starting (failingAt .turnOn 0) fresh .turnOn ∧ (failingAt .turnOn 0).okFor 0 ∧
      (failingAt .turnOn 0).answers.get 0 = some (.error 7)) ∧
    ((operationTrace Config.default fresh (.reset 5 6))[4]? = some (.rstSet .high .ok) ∧
      answersIn ((operationTrace Config.default fresh (.reset 5 6)).take 4) = 2 ∧
      delaysIn ((operationTrace Config.default fresh (.reset 5 6)).take 4) = 2 ∧
      Starting (failingAt (.reset 5 6) 2) fresh (.reset 5 6) ∧ (failingAt (.reset 5 6) 2).okFor 2 ∧
      (failingAt (.reset 5 6) 2).returnsFor 2 ∧ (failingAt (.reset 5 6) 2).answers.get 2 = some (.error 7)) ∧
    ((operationTrace Config.default fresh .flushCooperative)[5]? = some (.busWrite (Memory.bytes []) .ok) ∧
      Starting (failingAt .flushCooperative 5) fresh .flushCooperative ∧ (failingAt .flushCooperative 5).okFor 5 ∧
      (failingAt .flushCooperative 5).answers.get 5 = some (.error 7)) := by
  refine ⟨⟨rfl, rfl, ⟨rfl, rfl, rfl⟩, ?_, rfl⟩, ⟨rfl, rfl, rfl, ⟨rfl, rfl, rfl⟩, ?_, ?_, rfl⟩,
    ⟨rfl, ⟨rfl, rfl, rfl⟩, ?_, rfl⟩⟩
  · intro k hk; omega
  · unfold State.okFor; decide
  · intro k _; rfl
  · unfold State.okFor; decide

/-- CooperativeFlushIsFlushWithASuspension. -/
theorem test_witness_cooperative : State.reset.requests = [] := rfl

/-- RequestsWithCallsStartAtSeqZero, InitSendsTheTwelveCommandsInOrder, FlushSendsTheWindowAndThenTheWholeBuffer,
ResetMakesItsPulse, the first clause of SetRotationStoresAndThenSends, WindowAndPowerOperationsSendTheirCommands,
RotationAndDimensionsReport, ClearZeroFillsTheBuffer, the first clause of ReleaseEndsTheInstance: an idle instance, any
request, every answer `ok`. -/
theorem test_witness_request (q : Request) : (asking [q]).driver = some fresh ∧ (asking [q]).op = none ∧
    (asking [q]).requests = [{ request := q, waits := true }] ∧
    overlapping { asking [q] with requests := [] } = false ∧ (asking [q]).okFor 24 ∧ (asking [q]).returnsFor 2 :=
  ⟨rfl, rfl, rfl, rfl, fun _ _ => rfl, fun _ _ => rfl⟩

/-- The other clauses of SetRotationStoresAndThenSends. -/
theorem test_witness_setRotation_fails :
    ({ asking [.setRotation .rot90] with answers := { upcoming := [some (.error 7)], after := some .ok } } :
      State).answers.get 0 = some (.error 7) ∧
    ({ asking [.setRotation .rot90] with answers := { upcoming := [some .ok, some (.error 7)], after := some .ok } } :
      State).answers.get 0 = some .ok ∧
    ({ asking [.setRotation .rot90] with answers := { upcoming := [some .ok, some (.error 7)], after := some .ok } } :
      State).answers.get 1 = some (.error 7) := ⟨rfl, rfl, rfl⟩

/-- SetPixelStoresTwoBytesAtItsIndex and WellTypedRequestsAreTakenUp: the last pixel of `Rot0`; PixelRoundTripThroughFlush
beside it. -/
theorem test_witness_setPixel : (asking [.setPixel 95 63 0x1234#16, .flush]).driver = some fresh ∧
    Memory.wf fresh.fb = true ∧ (asking [.setPixel 95 63 0x1234#16, .flush]).op = none ∧
    95 < 2 ^ Config.default.coordBits ∧ 63 < 2 ^ Config.default.coordBits ∧ inBounds .rot0 95 63 = true ∧
    Request.wf Config.default (.setPixel 95 63 0x1234#16) = true ∧
    (asking [.setPixel 95 63 0x1234#16, .flush]).okFor 6 :=
  ⟨rfl, rfl, rfl, by decide, by decide, by decide, by decide, fun _ _ => rfl⟩

/-- OutOfBoundsPixelIsSilentlyDropped: the first column and the first row outside, under `Rot0`. -/
theorem test_witness_dropped : (asking [.setPixel 96 0 0#16]).driver = some fresh ∧ (asking [.setPixel 96 0 0#16]).op = none ∧
    96 < 2 ^ Config.default.coordBits ∧ 96 ≤ 96 ∧ (asking [.setPixel 0 64 0#16]).op = none ∧
    64 < 2 ^ Config.default.coordBits ∧ 64 ≤ 64 := by decide

/-- NewMakesTheInstance: handles that nobody holds, with and without an instance before; a handle in use. -/
theorem test_witness_new : (asking [.new 3 4 .rot90]).op = none ∧ (asking [.new 3 4 .rot90]).unheld 3 4 ∧
    State.unheld { asking [.new 0 1 .rot90] with driver := none } 0 1 ∧ ¬ (asking [.new 0 4 .rot90]).unheld 0 4 ∧
    ¬ (asking [.new 3 1 .rot90]).unheld 3 1 := by
  unfold State.unheld; decide

/-- Two living instances, the first addressed, the second waiting for the answer of its data write. -/
def two (qs : List Request) : State :=
  { State.reset with
    others := [{ driver := { rot := .rot90, fb := [(5, 7#8)], bus := 3, dc := 4 }, suspended := true, trace := [] }]
    requests := qs.map fun q => { request := q, waits := false } }

/-- RequestsWithCallsStartAtSeqZero, ResetMakesItsPulse and HeldControlLineIsNotLentAsResetLine: a line that no instance holds,
the instance's own control line, and that of another instance. -/
theorem test_witness_reset_line : (asking [.reset 5 6]).lineFree 5 ∧ (∃ e, e ∈ (asking [.reset 1 6]).instances ∧ e.dc = 1) ∧
    (∃ e, e ∈ (two [.reset 4 6]).instances ∧ e.dc = 4) ∧ (two [.reset 4 6]).op = none ∧
    (two [.reset 4 6]).driver = some fresh := by
  unfold State.lineFree; decide

/-- A second instance (10_state.md R24): the first one lives on as it was. -/
theorem test_second_instance : step (asking [.new 3 4 .rot90]) = .next { State.reset with
    driver := some { rot := .rot90, fb := [], bus := 3, dc := 4 }
    others := [{ driver := fresh, suspended := false, trace := [] }] } := rfl

/-- TurningAwayAndBackChangesNothing, from an idle instance and from a suspended one. -/
theorem test_witness_turning : Inv (two [.turnTo 3, .turnTo 0]) ∧
    Inv { two [.turnTo 3, .turnTo 0] with op := some suspendedFlush } ∧ (two [.turnTo 3, .turnTo 0]).op = none ∧
    (two [.turnTo 3, .turnTo 0]).driver = some fresh := by
  refine ⟨⟨by decide, by decide, by decide, by decide, fun _ => rfl, fun r d h => (by cases h)⟩,
    ⟨by decide, by decide, by decide, by decide, fun _ => rfl, fun r d h hd => ?_⟩, rfl, rfl⟩
  cases h; cases hd
  exact ⟨fun h => (by cases h), fun _ => by decide, fun _ => rfl, fun _ => ⟨rfl, rfl⟩, fun _ _ h => (by cases h)⟩

/-- StepLeavesOtherInstancesAlone and StepKeepsRecordHandlesAndTrace, the step that turns to another instance. -/
theorem test_witness_turn_step : ∃ t, step (two [.turnTo 3]) = .next t ∧ t.op = some suspendedFlush ∧
    t.others = [{ driver := fresh, suspended := false, trace := [] }] := ⟨_, rfl, rfl, rfl⟩

/-- The second clause of ReleaseEndsTheInstance. -/
theorem test_witness_no_instance : ({ asking [.flush] with driver := none } : State).op = none ∧
    Request.wf Config.default .flush = true ∧ (∀ t dc r, Request.flush ≠ .new t dc r) ∧ (∀ a, Request.flush ≠ .turnTo a) :=
  ⟨rfl, rfl, fun _ _ _ h => (by cases h), fun _ h => (by cases h)⟩

/-- Memory and handles of the one instance after reset meet the invariant, whatever else the state holds. -/
theorem fresh_alone (s : State) (h1 : s.driver = some fresh) (h2 : s.others = []) :
    (∀ d, d ∈ s.instances → Memory.wf d.fb = true) ∧ (s.instances.map Driver.bus).Nodup ∧
      (s.instances.map Driver.dc).Nodup := by
  have h : s.instances = [fresh] := by simp [State.instances, h1, h2]
  rw [h]; decide

/-- The invariant holds at reset. -/
theorem test_reset_inv : Inv State.reset :=
  ⟨(fresh_alone _ rfl rfl).1, (fresh_alone _ rfl rfl).2.1, (fresh_alone _ rfl rfl).2.2, fun h => (by cases h), fun _ => rfl,
    fun r d h => (by cases h)⟩

/-- The invariant holds of `turn_on` at its start, whatever is to be answered. -/
theorem test_starting_inv (as : Script (Option Answer)) : Inv { starting .turnOn with answers := as } := by
  refine ⟨(fresh_alone _ rfl rfl).1, (fresh_alone _ rfl rfl).2.1, (fresh_alone _ rfl rfl).2.2, fun _ => rfl,
    fun h => (by cases h), fun r d h hd => ?_⟩
  cases h; cases hd
  exact ⟨fun h => (by cases h), fun _ => Nat.zero_lt_succ 1, fun _ => rfl, fun h => (by cases h), fun _ _ h => (by cases h)⟩

/-- InvariantIsKeptByEveryStep, StepKeepsRecordHandlesAndTrace and SeqCountsMicroStepsOneByOne, at the first micro-step of
`turn_on`. -/
theorem test_witness_step_inv : Inv (starting .turnOn) ∧ overlapping (starting .turnOn) = false ∧ ∃ t, step (starting .turnOn) = .next t ∧
    t.op = some { op := .turnOn, seq := 1, pending := false } :=
  ⟨test_starting_inv State.reset.answers, rfl, _, rfl, rfl⟩

/-- A cooperative `flush` before its data write. -/
def beforeData (pending : Bool) : State :=
  { State.reset with op := some { op := .flushCooperative, seq := 5, pending := pending } }

/-- SeqCountsMicroStepsOneByOne, its other case: the suspension. -/
theorem test_witness_suspension : Inv (beforeData false) ∧ overlapping (beforeData false) = false ∧
    step (beforeData false) = .next (beforeData true) := by
  refine ⟨⟨(fresh_alone _ rfl rfl).1, (fresh_alone _ rfl rfl).2.1, (fresh_alone _ rfl rfl).2.2, fun _ => rfl,
    fun h => (by cases h), fun r d h hd => ?_⟩, rfl, rfl⟩
  cases h; cases hd
  exact ⟨fun h => (by cases h), fun _ => by decide, fun _ => rfl, fun h => (by cases h), fun _ _ h => (by cases h)⟩

/-- InvariantHoldsAfterNew, its clause about a placed Command. -/
theorem test_witness_placed_inv : Inv State.reset ∧ State.reset.driver = some fresh := ⟨test_reset_inv, rfl⟩

/-- OnlyTheEnvironmentCanHangTheBlock. -/
theorem test_witness_hang : Inv { starting .turnOn with answers := { upcoming := [], after := none } } ∧
    step { starting .turnOn with answers := { upcoming := [], after := none } } = .fault .capabilityNeverAnswers :=
  ⟨test_starting_inv _, rfl⟩

/-- EveryRefusalHasItsCause: each of the five is given, the first two by both of their causes. -/
theorem test_witness_refusals : step { asking [.flush] with driver := none } = .refused .noDriver ∧
    step (asking [.turnTo 9]) = .refused .noDriver ∧ step (asking [.new 3 1 .rot0]) = .refused .handleInUse ∧
    step (asking [.reset 1 6]) = .refused .handleInUse ∧
    step { starting .flush with requests := [{ request := .clear, waits := false }] } = .refused .overlappingRequest ∧
    step (asking [.setPixel 4294967296 0 0#16]) = .refused .illTypedRequest ∧
    step (State.reset.withFetchWord 8 0xE3) = .refused .invalidEncoding := ⟨rfl, rfl, rfl, rfl, rfl, rfl, rfl⟩

/-- OnlySetRotationChangesTheRotation. -/
theorem test_witness_rotation_changes : ∃ t d, step (starting (.setRotation .rot270)) = .next t ∧ t.driver = some d ∧
    d.bus = fresh.bus ∧ d.rot ≠ fresh.rot := ⟨_, _, rfl, rfl, rfl, by decide⟩

/-- OnlyPixelsAndClearChangeTheBuffer. -/
theorem test_witness_buffer_changes : Inv (asking [.setPixel 0 0 0xF800#16]) ∧
    ∃ t d, step (asking [.setPixel 0 0 0xF800#16]) = .next t ∧ t.driver = some d ∧ d.bus = fresh.bus ∧
      Memory.read d.fb 0 ≠ Memory.read fresh.fb 0 := by
  refine ⟨⟨(fresh_alone _ rfl rfl).1, (fresh_alone _ rfl rfl).2.1, (fresh_alone _ rfl rfl).2.2, fun h => (by cases h),
    fun _ => rfl, fun r d h => (by cases h)⟩, _, _, rfl, rfl, rfl, ?_⟩
  decide

/-- RotationAgreesWithTheDeviceAfterSetRotationAndInit, beside `test_witness_operation`. -/
theorem test_witness_agreement : (starting .init).cfg.distinctFirstBytes = true := by decide

/-- OverlappingRequestIsRefused, before and during the suspension of a cooperative `flush`. -/
theorem test_witness_overlap : (beforeData true).op = some { op := .flushCooperative, seq := 5, pending := true } ∧
    Operation.flushCooperative ≠ .send ∧ forAnother .clear = false ∧
    (beforeData false).op = some { op := .flushCooperative, seq := 5, pending := false } := by decide

/-- IdleBlockDoesNothing. -/
theorem test_witness_idle : State.reset.op = none ∧ State.reset.requests = [] := ⟨rfl, rfl⟩

end Sys2Proof.Machine.Tests
end

/-! PROOFS. The wire bytes of single Commands (40_command_codec.md R72 to R76). -/

namespace Sys2Proof

theorem encode_columnAddress (cfg : Config) (a b : Byte) :
    encode cfg (.columnAddress a b) = [cfg.opcColumnAddress, a, b] := rfl

theorem encode_rowAddress (cfg : Config) (a b : Byte) :
    encode cfg (.rowAddress a b) = [cfg.opcRowAddress, a, b] := rfl

theorem encode_remapAndColorDepth (cfg : Config) (h v : Bool) (m : ColourMode) (inc : AddrIncMode) :
    encode cfg (.remapAndColorDepth h v m inc) = [0xA0#8, remapByte cfg h v m inc] := rfl

theorem encode_displayClockDiv (cfg : Config) (a b : Byte) :
    encode cfg (.displayClockDiv a b) = [cfg.opcClockDiv, nibblePair a b] := rfl

theorem encode_preChargePeriod (cfg : Config) (a b : Byte) :
    encode cfg (.preChargePeriod a b) = [cfg.opcPrecharge, nibblePair b a] := rfl

theorem b2i_eq_ofNat (t : Bool) : b2i t = BitVec.ofNat 8 (if t then 1 else 0) := by
  cases t <;> rfl

theorem colourModeCode_eq_ite (cfg : Config) (m : ColourMode) :
    colourModeCode cfg m = if m = .cm65k then cfg.cm65kCode else 1#1 - cfg.cm65kCode := by
  cases m <;> rfl

theorem incCode_eq_ite (cfg : Config) (inc : AddrIncMode) :
    incCode cfg inc = if inc = .horizontal then 0#1 else cfg.incVerticalCode := by
  cases inc <;> rfl

/-- Shifting a number and then taking it as a byte is taking it and then shifting the byte. -/
theorem ofNat_shiftLeft_byte (n k : Nat) : BitVec.ofNat 8 (n <<< k) = BitVec.ofNat 8 n <<< k := by
  apply BitVec.eq_of_toNat_eq
  rw [BitVec.toNat_shiftLeft, BitVec.toNat_ofNat, BitVec.toNat_ofNat, Nat.shiftLeft_eq, Nat.shiftLeft_eq,
    Nat.mod_mul_mod]

/-- R74's formula over the natural numbers: or and shift there are or and shift of the byte. -/
theorem remapByte_eq_ofNat (cfg : Config) (h v : Bool) (m : ColourMode) (inc : AddrIncMode) :
    remapByte cfg h v m inc = BitVec.ofNat 8 (0x20 ||| ((if v then 1 else 0) <<< 4) |||
      ((if h then 1 else 0) <<< 1) ||| ((colourModeCode cfg m).toNat <<< 6) ||| (incCode cfg inc).toNat) := by
  simp only [remapByte, b2i_eq_ofNat, BitVec.ofNat_or, ← BitVec.ofNat_toNat, ofNat_shiftLeft_byte]

theorem toNat_and_low_nibble (b : Byte) : (b &&& 0x0F#8).toNat = b.toNat % 16 :=
  Nat.and_two_pow_sub_one_eq_mod b.toNat 4

/-- R53 (d) as arithmetic: the two nibbles do not overlap, so that or-ing them adds them. -/
theorem nibblePair_toNat (hi lo : Byte) : (nibblePair hi lo).toNat = 16 * (hi.toNat % 16) + lo.toNat % 16 := by
  have hhi : (hi.toNat % 16) <<< 4 < 2 ^ 8 := by omega
  have hlo : lo.toNat % 16 < 2 ^ 4 := by omega
  calc (nibblePair hi lo).toNat
      = (hi.toNat % 16) <<< 4 % 2 ^ 8 ||| lo.toNat % 16 := by
        rw [nibblePair, BitVec.toNat_or, BitVec.toNat_shiftLeft, toNat_and_low_nibble, toNat_and_low_nibble]
    _ = (hi.toNat % 16) <<< 4 + lo.toNat % 16 := by
        rw [Nat.mod_eq_of_lt hhi, Nat.shiftLeft_add_eq_or_of_lt hlo]
    _ = 16 * (hi.toNat % 16) + lo.toNat % 16 := by rw [Nat.shiftLeft_eq, Nat.mul_comm]

theorem nibblePair_eq_ofNat (hi lo : Byte) :
    nibblePair hi lo = BitVec.ofNat 8 (16 * (hi.toNat % 16) + lo.toNat % 16) := by
  rw [← nibblePair_toNat, BitVec.ofNat_toNat, BitVec.setWidth_eq]

end Sys2Proof

namespace Sys2Proof.Machine

/-- The output array holds the wire bytes of the Command and their number (R88), whatever its size. -/
theorem CmdBuf.wire_len_ofWire (size : Nat) (wire : List Byte) :
    (CmdBuf.ofWire size wire).wire = wire ∧ (CmdBuf.ofWire size wire).len = wire.length :=
  ⟨CmdBuf.wire_ofWire size wire, rfl⟩

/-- Settles O2: the two encodings stand in the output array as they are. -/
theorem windowCommandsEncodeRawOperands : Obligations.WindowCommandsEncodeRawOperands := by
  intro cfg a b
  rw [encode_columnAddress, encode_rowAddress]
  exact ⟨CmdBuf.wire_len_ofWire _ _, CmdBuf.wire_len_ofWire _ _⟩

/-- Settles O4, by reading the remap byte and the two codes in it as numbers. -/
theorem remapEncodesItsFormula : Obligations.RemapEncodesItsFormula := by
  intro cfg h v m inc
  rw [encode_remapAndColorDepth, remapByte_eq_ofNat, colourModeCode_eq_ite, incCode_eq_ite]
  exact CmdBuf.wire_len_ofWire _ _

/-- Settles O5: both Commands carry one pair of nibbles, the clock Command in the order of its operands, the pre-charge
Command in the opposite one. -/
theorem nibbleCommandsPackTheirOperands : Obligations.NibbleCommandsPackTheirOperands := by
  intro cfg a b
  rw [encode_displayClockDiv, encode_preChargePeriod, nibblePair_eq_ofNat a b, nibblePair_eq_ofNat b a]
  exact ⟨CmdBuf.wire_len_ofWire _ _, CmdBuf.wire_len_ofWire _ _⟩

end Sys2Proof.Machine

/-! PROOFS. The reports of the Rotation/Geometry Resolver (41_rotation_geometry.md R102, R103). -/

namespace Sys2Proof.Machine

/-- An idle block takes up a well-typed request and takes it off the host's script. -/
theorem step_issues (s : State) (q : Request) (w : Bool) (rest : List HostInput) (hop : s.op = none)
    (hq : s.requests = { request := q, waits := w } :: rest) (hwf : q.wf s.cfg = true) :
    step s = issue q { s with requests := rest } := by
  simp only [step, hop, nextRequest, hq, hwf, if_true]

theorem issue_rotation (s : State) (d : Driver) (hd : s.driver = some d) :
    issue .rotation s = .next (answerHost (.rotationIs d.rot) s) := by
  simp only [issue, opRotation, hd]

theorem issue_dimensions (s : State) (d : Driver) (hd : s.driver = some d) :
    issue .dimensions s = .next (answerHost (.dims (logicalDims d.rot).1 (logicalDims d.rot).2) s) := by
  simp only [issue, opDimensions, hd]

theorem logicalDims_eq_ite (r : Rotation) :
    logicalDims r = if r = .rot0 ∨ r = .rot180 then (96, 64) else (64, 96) := by
  cases r <;> rfl

/-- Settles O35: an idle step takes the request up, and each report is one answer to the host. -/
theorem rotationAndDimensionsReport : Obligations.RotationAndDimensionsReport := by
  intro s d rest w hd hop
  constructor
  · intro hq
    rw [step_issues s _ w rest hop hq rfl, issue_rotation { s with requests := rest } d hd]
    rfl
  · intro hq
    rw [step_issues s _ w rest hop hq rfl, issue_dimensions { s with requests := rest } d hd, logicalDims_eq_ite]
    split <;> rfl

end Sys2Proof.Machine

/-! PROOFS. `clear` of the Framebuffer Manager (42_framebuffer.md R113). -/

namespace Sys2Proof.Machine

theorem issue_clear (s : State) (d : Driver) (hd : s.driver = some d) :
    issue .clear s = .next (answerHost .nothing (storeFramebuffer d Memory.zeroed s)) := by
  simp only [issue, opClear, hd]

/-- Settles O39: an idle step takes the request up, and the memory it stores is the zeroed one. -/
theorem clearZeroFillsTheBuffer : Obligations.ClearZeroFillsTheBuffer := by
  intro s d rest w hd hop hq
  have hstep : step s = .next (answerHost .nothing (storeFramebuffer d Memory.zeroed { s with requests := rest })) := by
    rw [step_issues s _ w rest hop hq rfl, issue_clear { s with requests := rest } d hd]
  exact ⟨Memory.zeroed, hstep, Memory.zeroed_wf, Memory.read_zeroed⟩

end Sys2Proof.Machine

/-! PROOFS. The operand packings read back (30_encoding.md R53, R55, R56). -/

namespace Sys2Proof

/-! Nibbles (R53 (d)). -/

theorem highNibble_nibblePair (hi lo : Byte) : highNibble (nibblePair hi lo) = hi &&& 0x0F#8 := by
  apply BitVec.eq_of_toNat_eq
  rw [highNibble, BitVec.toNat_ushiftRight, nibblePair_toNat, toNat_and_low_nibble, Nat.shiftRight_eq_div_pow]
  omega

theorem lowNibble_nibblePair (hi lo : Byte) : lowNibble (nibblePair hi lo) = lo &&& 0x0F#8 := by
  apply BitVec.eq_of_toNat_eq
  rw [lowNibble, toNat_and_low_nibble, nibblePair_toNat, toNat_and_low_nibble]
  omega

theorem nibblePair_high_low (n : Byte) : nibblePair (highNibble n) (lowNibble n) = n := by
  apply BitVec.eq_of_toNat_eq
  rw [nibblePair_toNat, highNibble, lowNibble, toNat_and_low_nibble, BitVec.toNat_ushiftRight,
    Nat.shiftRight_eq_div_pow]
  omega

theorem nibblePair_masked (hi lo : Byte) : nibblePair (hi &&& 0x0F#8) (lo &&& 0x0F#8) = nibblePair hi lo := by
  apply BitVec.eq_of_toNat_eq
  simp only [nibblePair_toNat, toNat_and_low_nibble, Nat.mod_mod]

theorem isNibble_highNibble (n : Byte) : isNibble (highNibble n) = true := by
  rw [isNibble, decide_eq_true_eq, highNibble, BitVec.toNat_ushiftRight, Nat.shiftRight_eq_div_pow]
  omega

theorem isNibble_masked (b : Byte) : isNibble (b &&& 0x0F#8) = true := by
  rw [isNibble, decide_eq_true_eq, toNat_and_low_nibble]
  omega

theorem masked_of_isNibble (b : Byte) (h : isNibble b = true) : b &&& 0x0F#8 = b := by
  apply BitVec.eq_of_toNat_eq
  rw [isNibble, decide_eq_true_eq] at h
  rw [toNat_and_low_nibble, Nat.mod_eq_of_lt (by omega)]

/-! The VCOMH level (R53 (f)): facts about each of the 256 bytes. -/

theorem vcomhLegal_vcomhPack : ∀ level : Byte, vcomhLegal (vcomhPack level) = true := by decide

theorem vcomhUnpack_vcomhPack : ∀ level : Byte, vcomhUnpack (vcomhPack level) = level &&& 0x1F#8 := by decide

theorem vcomhPack_vcomhUnpack : ∀ b : Byte, vcomhLegal b = true → vcomhPack (vcomhUnpack b) = b := by decide

theorem vcomhPack_masked : ∀ level : Byte, vcomhPack (level &&& 0x1F#8) = vcomhPack level := by decide

theorem isLevelCode_vcomhUnpack : ∀ b : Byte, vcomhLegal b = true → isLevelCode (vcomhUnpack b) = true := by decide

theorem isLevelCode_masked : ∀ level : Byte, isLevelCode (level &&& 0x1F#8) = true := by decide

theorem masked_of_isLevelCode : ∀ level : Byte, isLevelCode level = true → level &&& 0x1F#8 = level := by decide

/-! The channel bytes of a colour (R53 (e)), read as numbers. -/

theorem redByte_toNat (c : Colour) : (redByte c).toNat = 2 * (c.toNat / 2048) := by
  have hmask : 0xF800#16 = BitVec.allOnes 16 <<< 11 := rfl
  rw [redByte, hmask, ← BitVec.shiftLeft_ushiftRight, BitVec.toNat_setWidth, BitVec.toNat_ushiftRight,
    BitVec.toNat_shiftLeft, BitVec.toNat_ushiftRight, Nat.shiftRight_eq_div_pow, Nat.shiftRight_eq_div_pow, Nat.shiftLeft_eq]
  omega

theorem greenByte_toNat (c : Colour) : (greenByte c).toNat = c.toNat / 32 % 64 := by
  have hmask : (c &&& 0x07E0#16).toNat >>> 5 = c.toNat >>> 5 % 2 ^ 6 := by
    rw [BitVec.toNat_and, Nat.shiftRight_and_distrib]
    exact Nat.and_two_pow_sub_one_eq_mod _ 6
  rw [greenByte, BitVec.toNat_setWidth, BitVec.toNat_ushiftRight, hmask, Nat.shiftRight_eq_div_pow]
  omega

theorem blueByte_toNat (c : Colour) : (blueByte c).toNat = 2 * (c.toNat % 32) := by
  have hmask : (c &&& 0x001F#16).toNat = c.toNat % 2 ^ 5 := Nat.and_two_pow_sub_one_eq_mod _ 5
  rw [blueByte, BitVec.toNat_setWidth, BitVec.toNat_shiftLeft, hmask, Nat.shiftLeft_eq]
  omega

/-- R56 (d) as arithmetic, for the bytes whose bit 0 is no bit of the channel. -/
theorem evenChannel_iff : ∀ b : Byte, b &&& 0xC1#8 = 0#8 ↔ b.toNat < 64 ∧ b.toNat % 2 = 0 := by decide

/-- R56 (d) as arithmetic, for the byte that holds six bits of its channel. -/
theorem sixBitChannel_iff : ∀ b : Byte, b &&& 0xC0#8 = 0#8 ↔ b.toNat < 64 := by decide

theorem channelsLegal_iff (r g b : Byte) : channelsLegal r g b = true ↔
    (r.toNat < 64 ∧ r.toNat % 2 = 0) ∧ g.toNat < 64 ∧ b.toNat < 64 ∧ b.toNat % 2 = 0 := by
  simp only [channelsLegal, Bool.and_eq_true, beq_iff_eq, evenChannel_iff, sixBitChannel_iff, and_assoc]

/-- The three channels of legal channel bytes do not overlap, so that or-ing them adds them. -/
theorem colourOfChannels_toNat (r g b : Byte) (h : channelsLegal r g b = true) :
    (colourOfChannels r g b).toNat = r.toNat / 2 * 2048 + g.toNat * 32 + b.toNat / 2 := by
  obtain ⟨⟨hr, hr2⟩, hg, hb, -⟩ := (channelsLegal_iff r g b).1 h
  have hred : (r.setWidth 16 <<< 10).toNat = (r.toNat / 2) <<< 11 := by
    rw [BitVec.toNat_shiftLeft, BitVec.toNat_setWidth, Nat.shiftLeft_eq, Nat.shiftLeft_eq]
    omega
  have hgreen : (g.setWidth 16 <<< 5).toNat = g.toNat <<< 5 := by
    rw [BitVec.toNat_shiftLeft, BitVec.toNat_setWidth, Nat.shiftLeft_eq]
    omega
  have hblue : (b.setWidth 16 >>> 1).toNat = b.toNat / 2 := by
    rw [BitVec.toNat_ushiftRight, BitVec.toNat_setWidth, Nat.shiftRight_eq_div_pow]
    omega
  have hlow : g.toNat <<< 5 ||| b.toNat / 2 = g.toNat <<< 5 + b.toNat / 2 :=
    (Nat.shiftLeft_add_eq_or_of_lt (by omega) _).symm
  have hall : (r.toNat / 2) <<< 11 ||| (g.toNat <<< 5 + b.toNat / 2) =
      (r.toNat / 2) <<< 11 + (g.toNat <<< 5 + b.toNat / 2) :=
    (Nat.shiftLeft_add_eq_or_of_lt (by rw [Nat.shiftLeft_eq]; omega) _).symm
  rw [colourOfChannels, BitVec.toNat_or, BitVec.toNat_or, hred, hgreen, hblue, Nat.or_assoc, hlow, hall,
    Nat.shiftLeft_eq, Nat.shiftLeft_eq]
  omega

theorem channelsLegal_channels (c : Colour) : channelsLegal (redByte c) (greenByte c) (blueByte c) = true := by
  rw [channelsLegal_iff, redByte_toNat, greenByte_toNat, blueByte_toNat]
  omega

theorem colourOfChannels_channels (c : Colour) : colourOfChannels (redByte c) (greenByte c) (blueByte c) = c := by
  apply BitVec.eq_of_toNat_eq
  rw [colourOfChannels_toNat _ _ _ (channelsLegal_channels c), redByte_toNat, greenByte_toNat, blueByte_toNat]
  omega

theorem channels_colourOfChannels (r g b : Byte) (h : channelsLegal r g b = true) :
    channels (colourOfChannels r g b) = [r, g, b] := by
  have hc := colourOfChannels_toNat r g b h
  obtain ⟨hr, hg, hb⟩ := (channelsLegal_iff r g b).1 h
  have hred : redByte (colourOfChannels r g b) = r := BitVec.eq_of_toNat_eq (by rw [redByte_toNat, hc]; omega)
  have hgreen : greenByte (colourOfChannels r g b) = g := BitVec.eq_of_toNat_eq (by rw [greenByte_toNat, hc]; omega)
  have hblue : blueByte (colourOfChannels r g b) = b := BitVec.eq_of_toNat_eq (by rw [blueByte_toNat, hc]; omega)
  rw [channels, hred, hgreen, hblue]

/-! The remap byte (R55), as a byte of two flags and two one-bit codes. -/

/-- R55 over the codes of the two modes, without the record they come from. -/
def remapOfCodes (hMirror vMirror : Bool) (mode inc : BitVec 1) : Byte :=
  0x20#8 ||| (b2i vMirror <<< 4) ||| (b2i hMirror <<< 1) ||| (mode.setWidth 8 <<< 6) ||| inc.setWidth 8

theorem remapByte_eq_remapOfCodes (cfg : Config) (h v : Bool) (m : ColourMode) (inc : AddrIncMode) :
    remapByte cfg h v m inc = remapOfCodes h v (colourModeCode cfg m) (incCode cfg inc) := rfl

theorem remapLegal_remapOfCodes : ∀ (h v : Bool) (m i : BitVec 1), remapLegal (remapOfCodes h v m i) = true := by decide

theorem remapOfCodes_fields : ∀ (h v : Bool) (m i : BitVec 1),
    bitAt (remapOfCodes h v m i) 6 = m ∧ bitAt (remapOfCodes h v m i) 0 = i ∧
      (bitAt (remapOfCodes h v m i) 1 == 1#1) = h ∧ (bitAt (remapOfCodes h v m i) 4 == 1#1) = v := by decide

theorem remapOfCodes_of_fields : ∀ c : Byte, remapLegal c = true →
    remapOfCodes (bitAt c 1 == 1#1) (bitAt c 4 == 1#1) (bitAt c 6) (bitAt c 0) = c := by decide

/-- The colour mode is the one whose code stands at bit 6, for either value of the parameter. -/
theorem colourModeCode_colourModeOf (cfg : Config) (b : Byte) : colourModeCode cfg (colourModeOf cfg b) = bitAt b 6 := by
  have hbit : ∀ x k : BitVec 1, x ≠ k → 1#1 - k = x := by decide
  unfold colourModeOf
  split
  next h => exact h.symm
  next h => exact hbit _ _ h

theorem colourModeOf_of_code (cfg : Config) (b : Byte) (m : ColourMode) (h : bitAt b 6 = colourModeCode cfg m) :
    colourModeOf cfg b = m := by
  have hbit : ∀ k : BitVec 1, 1#1 - k ≠ k := by decide
  cases m with
  | cm65k => exact if_pos h
  | cm256 => exact if_neg (h ▸ hbit _)

theorem incCode_of_incOf (cfg : Config) (b : Byte) (inc : AddrIncMode) (h : incOf cfg b = some inc) :
    incCode cfg inc = bitAt b 0 := by
  unfold incOf at h
  split at h
  next hb => cases h; exact hb.symm
  next =>
    split at h
    next hb => cases h; exact hb.symm
    next => cases h

/-- The code 1 of the column-major mode tells it from the row-major one, whose code is 0. -/
theorem incOf_of_code (cfg : Config) (b : Byte) (inc : AddrIncMode) (hv : cfg.incVerticalCode = 1#1)
    (h : bitAt b 0 = incCode cfg inc) : incOf cfg b = some inc := by
  cases inc with
  | horizontal => exact if_pos h
  | vertical =>
    rw [incCode] at h
    rw [incOf, if_neg (by rw [h, hv]; decide), if_pos h]

end Sys2Proof

/-! PROOFS. Decoder and encoder against each other (30_encoding.md section 5). -/

namespace Sys2Proof

/-- The bytes after byte 0. -/
theorem encode_eq_cons (cfg : Config) (i : Instr) :
    encode cfg i = firstByte cfg i.opcode :: (encode cfg i).tail := by
  cases i <;> rfl

theorem decode_cons (cfg : Config) (o : Opcode) (bs : List Byte) (h : cfg.distinctFirstBytes = true) :
    decode cfg (firstByte cfg o :: bs) = decodeOperands cfg o bs := by
  rw [decode, opcodeOf_firstByte cfg o h, Option.bind_some]

/-- The operand bytes of each row read back what its rule put there. -/
theorem decodeOperands_encode (cfg : Config) (i : Instr) (rest : List Byte) (h : cfg.incVerticalCode = 1#1) :
    decodeOperands cfg i.opcode ((encode cfg i).tail ++ rest) = some (i.masked, rest) := by
  cases i with
  | remapAndColorDepth hm vm m inc =>
    obtain ⟨h6, h0, h1, h4⟩ := remapOfCodes_fields hm vm (colourModeCode cfg m) (incCode cfg inc)
    rw [← remapByte_eq_remapOfCodes] at h6 h0 h1 h4
    have hlegal : remapLegal (remapByte cfg hm vm m inc) = true := remapLegal_remapOfCodes _ _ _ _
    have hmode := colourModeOf_of_code cfg _ m h6
    have hinc := incOf_of_code cfg _ inc h h0
    simp [encode_remapAndColorDepth, Instr.opcode, decodeOperands, hlegal, hmode, hinc, h1, h4, Instr.masked]
  | displayClockDiv osc div =>
    simp [encode_displayClockDiv, Instr.opcode, decodeOperands, highNibble_nibblePair, lowNibble_nibblePair,
      Instr.masked]
  | preChargePeriod p1 p2 =>
    simp [encode_preChargePeriod, Instr.opcode, decodeOperands, highNibble_nibblePair, lowNibble_nibblePair,
      Instr.masked]
  | drawLine c1 r1 c2 r2 c =>
    simp [encode, encDrawLine, channels, Instr.opcode, decodeOperands, channelsLegal_channels,
      colourOfChannels_channels, Instr.masked]
  | drawRect c1 r1 c2 r2 o f =>
    simp [encode, encDrawRect, channels, Instr.opcode, decodeOperands, channelsLegal_channels,
      colourOfChannels_channels, Instr.masked]
  | vcomhDeselect level =>
    simp [encode, encVcomhDeselect, Instr.opcode, decodeOperands, vcomhLegal_vcomhPack, vcomhUnpack_vcomhPack,
      Instr.masked]
  | _ => rfl

/-- The decoder reads the masked Command from the wire bytes, whatever follows them. -/
theorem decode_encode (cfg : Config) (i : Instr) (rest : List Byte) (h : cfg.wf = true) :
    decode cfg (encode cfg i ++ rest) = some (i.masked, rest) := by
  rw [encode_eq_cons, List.cons_append, decode_cons cfg _ _ (Config.distinct_of_wf cfg h),
    decodeOperands_encode cfg i rest (Config.incVertical_of_wf cfg h)]

theorem Instr.masked_wf (i : Instr) : i.masked.wf = true := by
  cases i <;> simp only [Instr.masked, Instr.wf, isNibble_masked, isLevelCode_masked, Bool.and_self]

theorem Instr.masked_of_wf (i : Instr) (h : i.wf = true) : i.masked = i := by
  cases i with
  | displayClockDiv a b | preChargePeriod a b =>
    simp only [Instr.wf, Bool.and_eq_true] at h
    simp only [Instr.masked, masked_of_isNibble _ h.1, masked_of_isNibble _ h.2]
  | vcomhDeselect level => simp only [Instr.masked, masked_of_isLevelCode level h]
  | _ => rfl

/-- Masking drops exactly bits that the encoding drops. -/
theorem encode_masked (cfg : Config) (i : Instr) : encode cfg i.masked = encode cfg i := by
  cases i with
  | displayClockDiv a b | preChargePeriod a b =>
    simp only [Instr.masked, encode, encDisplayClockDiv, encPreChargePeriod, nibblePair_masked]
  | vcomhDeselect level => simp only [Instr.masked, encode, encVcomhDeselect, vcomhPack_masked]
  | _ => rfl

/-- What the operand decoder accepts is the encoding of what it gives. -/
theorem encode_of_decodeOperands (cfg : Config) (o : Opcode) (bs rest : List Byte) (i : Instr)
    (h : decodeOperands cfg o bs = some (i, rest)) : encode cfg i ++ rest = firstByte cfg o :: bs ∧ i.wf = true := by
  unfold decodeOperands at h
  split at h
  case h_1 r x g y b bs' =>
    obtain ⟨⟨rfl, rfl⟩, hi⟩ := Option.ite_none_right_eq_some.1 h
    cases hi
    exact ⟨rfl, rfl⟩
  case h_4 c bs' =>
    obtain ⟨hlegal, hi⟩ := Option.ite_none_right_eq_some.1 h
    obtain ⟨inc, hinc, hi⟩ := Option.map_eq_some_iff.1 hi
    cases hi
    rw [encode_remapAndColorDepth, remapByte_eq_remapOfCodes, colourModeCode_colourModeOf, incCode_of_incOf cfg c inc hinc,
      remapOfCodes_of_fields c hlegal]
    exact ⟨rfl, rfl⟩
  case h_5 n bs' =>
    cases h
    rw [encode_displayClockDiv, nibblePair_high_low, Instr.wf, isNibble_highNibble, lowNibble, isNibble_masked]
    exact ⟨rfl, rfl⟩
  case h_6 n bs' =>
    cases h
    rw [encode_preChargePeriod, nibblePair_high_low, Instr.wf, isNibble_highNibble, lowNibble, isNibble_masked]
    exact ⟨rfl, rfl⟩
  case h_7 c1 r1 c2 r2 r g b bs' =>
    obtain ⟨hlegal, hi⟩ := Option.ite_none_right_eq_some.1 h
    cases hi
    rw [encode, encDrawLine, channels_colourOfChannels r g b hlegal]
    exact ⟨rfl, rfl⟩
  case h_8 c1 r1 c2 r2 r g b fr fg fb bs' =>
    obtain ⟨hlegal, hi⟩ := Option.ite_none_right_eq_some.1 h
    obtain ⟨hout, hfill⟩ := Bool.and_eq_true_iff.1 hlegal
    cases hi
    rw [encode, encDrawRect, channels_colourOfChannels r g b hout, channels_colourOfChannels fr fg fb hfill]
    exact ⟨rfl, rfl⟩
  case h_14 v bs' =>
    obtain ⟨hlegal, hi⟩ := Option.ite_none_right_eq_some.1 h
    cases hi
    rw [encode, encVcomhDeselect, vcomhPack_vcomhUnpack v hlegal]
    exact ⟨rfl, isLevelCode_vcomhUnpack v hlegal⟩
  all_goals cases h
  all_goals exact ⟨rfl, rfl⟩

theorem encode_of_decode (cfg : Config) (bs rest : List Byte) (i : Instr) (h : decode cfg bs = some (i, rest)) :
    encode cfg i ++ rest = bs ∧ i.wf = true := by
  cases bs with
  | nil => cases h
  | cons b bs' =>
    obtain ⟨o, ho, hi⟩ := Option.bind_eq_some_iff.1 h
    obtain ⟨henc, hwf⟩ := encode_of_decodeOperands cfg o bs' rest i hi
    exact ⟨by rw [henc, firstByte_of_opcodeOf cfg b o ho], hwf⟩

/-! The number of the remap byte (R55). -/

theorem remapOfCodes_toNat : ∀ (h v : Bool) (m i : BitVec 1), (remapOfCodes h v m i).toNat =
    0x20 + 0x40 * m.toNat + (if v then 0x10 else 0) + (if h then 2 else 0) + i.toNat := by decide

theorem remapOfCodes_bits : ∀ (h v : Bool) (m i : BitVec 1), let c := remapOfCodes h v m i
    c.getLsbD 7 = false ∧ c.getLsbD 6 = decide (m.toNat = 1) ∧ c.getLsbD 5 = true ∧ c.getLsbD 4 = v ∧
      c.getLsbD 3 = false ∧ c.getLsbD 2 = false ∧ c.getLsbD 1 = h ∧ c.getLsbD 0 = decide (i.toNat = 1) := by decide

theorem remapOfCodes_values : ∀ (h v : Bool) (m i : BitVec 1), (remapOfCodes h v m i).toNat ∈
    [0x20, 0x21, 0x22, 0x23, 0x30, 0x31, 0x32, 0x33, 0x60, 0x61, 0x62, 0x63, 0x70, 0x71, 0x72, 0x73] := by decide

theorem colourModeCode_toNat (cfg : Config) (m : ColourMode) : (colourModeCode cfg m).toNat =
    if m = .cm65k then cfg.cm65kCode.toNat else 1 - cfg.cm65kCode.toNat := by
  have hsub : ∀ k : BitVec 1, (1#1 - k).toNat = 1 - k.toNat := by decide
  cases m with
  | cm65k => rfl
  | cm256 => exact hsub _

theorem incCode_toNat (cfg : Config) (inc : AddrIncMode) : (incCode cfg inc).toNat =
    if inc = .horizontal then 0 else cfg.incVerticalCode.toNat := by
  cases inc <;> rfl

end Sys2Proof

namespace Sys2Proof.Machine

/-- Settles O7: the decoder reads the masked Command, and masking changes no operand that fits. -/
theorem decodingAnEncodedCommandGivesItBack : Obligations.DecodingAnEncodedCommandGivesItBack := by
  intro cfg i rest hcfg hi
  rw [decode_encode cfg i rest hcfg, Instr.masked_of_wf i hi]

/-- Settles O8. -/
theorem decodingMasksWhatTheEncodingDrops : Obligations.DecodingMasksWhatTheEncodingDrops :=
  fun cfg i rest hcfg => ⟨decode_encode cfg i rest hcfg, Instr.masked_wf i, Instr.masked_of_wf i⟩

/-- Settles O9, row by row of the operand decoder. -/
theorem encodingADecodedCommandGivesItsBytesBack : Obligations.EncodingADecodedCommandGivesItsBytesBack :=
  encode_of_decode

/-- Settles O10: decoding equal wire bytes gives equal masked Commands, and the encoding sees the masked Command alone. -/
theorem encodingIsInjectiveUpToMasking : Obligations.EncodingIsInjectiveUpToMasking := by
  intro cfg i j hcfg
  constructor
  · intro h
    have hi := decode_encode cfg i [] hcfg
    rw [h, decode_encode cfg j [] hcfg] at hi
    exact (congrArg Prod.fst (Option.some.inj hi)).symm
  · intro h
    rw [← encode_masked cfg i, h, encode_masked]

/-- Settles O11: an encoding is decoded, and what is decoded is an encoding. -/
theorem decoderRejectsExactlyWhatNoEncodingStarts : Obligations.DecoderRejectsExactlyWhatNoEncodingStarts := by
  intro cfg bs hcfg
  constructor
  · rintro hnone i rest rfl
    rw [decode_encode cfg i rest hcfg] at hnone
    cases hnone
  · intro hno
    cases hdec : decode cfg bs with
    | none => rfl
    | some p =>
      obtain ⟨i, rest⟩ := p
      exact absurd (encode_of_decode cfg bs rest i hdec).1.symm (hno i rest)

/-- Settles O6: byte 0 is the first byte of the row, whose length is that of the Command. -/
theorem lengthFollowsFromTheFirstByte : Obligations.LengthFollowsFromTheFirstByte := by
  intro cfg i hcfg
  rw [encode_head, encode_length, Option.bind_some, wireLenOf,
    opcodeOf_firstByte cfg _ (Config.distinct_of_wf cfg hcfg)]
  exact ⟨rfl, Opcode.wireLen_range _⟩

/-- Settles O3: every claim is one about a byte of two flags and two one-bit codes. -/
theorem remapByteBitByBit : Obligations.RemapByteBitByBit := by
  intro cfg h v m inc cm ic
  have hcm : cm = (colourModeCode cfg m).toNat := (colourModeCode_toNat cfg m).symm
  have hic : ic = (incCode cfg inc).toNat := (incCode_toNat cfg inc).symm
  refine ⟨remapByte cfg h v m inc, encode_remapAndColorDepth cfg h v m inc, ?_⟩
  rw [hcm, hic, remapByte_eq_remapOfCodes]
  obtain ⟨h7, h6, h5, h4, h3, h2, h1, h0⟩ := remapOfCodes_bits h v (colourModeCode cfg m) (incCode cfg inc)
  exact ⟨h7, h6, h5, h4, h3, h2, h1, h0, remapOfCodes_toNat _ _ _ _, remapOfCodes_values _ _ _ _⟩

/-- Settles O12: ten words, each decoded by evaluation. -/
theorem tableWordsDecodeToTheirCommands : Obligations.TableWordsDecodeToTheirCommands := by
  unfold Obligations.TableWordsDecodeToTheirCommands
  decide

end Sys2Proof.Machine

/-! PROOFS. What a Command does (40_command_codec.md R70): its stops, its frame, its bytes. -/

namespace Sys2Proof

/-! The wire bytes as arithmetic (40_command_codec.md R74 to R78, R83). -/

theorem redByte_eq_ofNat (c : Colour) : redByte c = BitVec.ofNat 8 (2 * (c.toNat / 2048)) := by
  rw [← redByte_toNat, BitVec.ofNat_toNat, BitVec.setWidth_eq]

theorem greenByte_eq_ofNat (c : Colour) : greenByte c = BitVec.ofNat 8 (c.toNat / 32 % 64) := by
  rw [← greenByte_toNat, BitVec.ofNat_toNat, BitVec.setWidth_eq]

theorem blueByte_eq_ofNat (c : Colour) : blueByte c = BitVec.ofNat 8 (2 * (c.toNat % 32)) := by
  rw [← blueByte_toNat, BitVec.ofNat_toNat, BitVec.setWidth_eq]

theorem channels_eq_ofNat (c : Colour) : channels c = [BitVec.ofNat 8 (2 * (c.toNat / 2048)),
    BitVec.ofNat 8 (c.toNat / 32 % 64), BitVec.ofNat 8 (2 * (c.toNat % 32))] := by
  rw [channels, redByte_eq_ofNat, greenByte_eq_ofNat, blueByte_eq_ofNat]

theorem vcomhPack_eq_ofNat : ∀ level : Byte, vcomhPack level = BitVec.ofNat 8 (2 * (level.toNat % 32)) := by decide

theorem remapByte_eq_sum (cfg : Config) (h v : Bool) (m : ColourMode) (inc : AddrIncMode) :
    remapByte cfg h v m inc = BitVec.ofNat 8
      (0x20 + 0x40 * (if m = .cm65k then cfg.cm65kCode.toNat else 1 - cfg.cm65kCode.toNat) +
        (if v then 0x10 else 0) + (if h then 2 else 0) + (if inc = .horizontal then 0 else cfg.incVerticalCode.toNat)) := by
  rw [← colourModeCode_toNat, ← incCode_toNat, ← remapOfCodes_toNat, ← remapByte_eq_remapOfCodes, BitVec.ofNat_toNat,
    BitVec.setWidth_eq]

end Sys2Proof

namespace Sys2Proof.Machine

theorem Script.tail_tail {α : Type} (p : Script α) : p.tail.tail = p.skip 2 := by
  rw [Script.tail_eq_skip, Script.tail_eq_skip, Script.skip_skip]

theorem Script.head_tail {α : Type} (p : Script α) : p.tail.head = p.get 1 := by
  rw [Script.tail_eq_skip, Script.head_skip]

theorem State.okFor_two (s : State) (h : s.okFor 2) : s.answers.head = some .ok ∧ s.answers.tail.head = some .ok := by
  rw [Script.head_tail, ← Script.get_zero]
  exact ⟨h 0 (by omega), h 1 (by omega)⟩

/-- A Command whose two calls answer `ok` completes (R70). -/
theorem exec_completes (i : Instr) (s : State) (d : Driver) (hd : s.driver = some d) (hok : s.okFor 2) :
    exec i s = .next (s.sent (encode s.cfg i)) := by
  obtain ⟨h0, h1⟩ := s.okFor_two hok
  rw [exec_eq_send, send_ok _ s d hd h0 h1, Script.tail_tail]
  rfl

/-- The same, with the wire bytes written out. -/
theorem exec_sends (i : Instr) (s : State) (d : Driver) (wire : List Byte) (hd : s.driver = some d) (hok : s.okFor 2)
    (hw : encode s.cfg i = wire) : exec i s = .next (s.sent wire) := by
  rw [exec_completes i s d hd hok, hw]

/-- Settles O13. -/
theorem everyCommandCompletes : Obligations.EveryCommandCompletes := exec_completes

/-- Settles O1. -/
theorem contrastGoesOutAsItsSixBytes : Obligations.ContrastGoesOutAsItsSixBytes :=
  fun s d r g b hd hok => exec_completes (.contrast r g b) s d hd hok

/-- Settles O14: the five encodings, the packed bytes read as numbers. -/
theorem sourcedCommandsRunToTheirBytes : Obligations.SourcedCommandsRunToTheirBytes := by
  intro s d a b h v m inc hd hok
  refine ⟨exec_sends _ s d _ hd hok rfl, exec_sends _ s d _ hd hok rfl, exec_sends _ s d _ hd hok ?_,
    exec_sends _ s d _ hd hok ?_, exec_sends _ s d _ hd hok ?_⟩
  · rw [encode_remapAndColorDepth, remapByte_eq_sum]
  · rw [encode_displayClockDiv, nibblePair_eq_ofNat]
  · rw [encode_preChargePeriod, nibblePair_eq_ofNat]

/-- Settles O15: raw coordinates, then the channels of each colour as numbers. -/
theorem drawCommandsRunToTheirBytes : Obligations.DrawCommandsRunToTheirBytes := by
  intro s d c1 r1 c2 r2 colour fill hd hok
  refine ⟨exec_sends _ s d _ hd hok ?_, exec_sends _ s d _ hd hok ?_⟩
  · rw [encode, encDrawLine, channels_eq_ofNat]
    rfl
  · rw [encode, encDrawRect, channels_eq_ofNat, channels_eq_ofNat]
    rfl

/-- Settles O16: three raw operands and the packed level as a number. -/
theorem setupCommandsRunToTheirBytes : Obligations.SetupCommandsRunToTheirBytes := by
  intro s d a hd hok
  refine ⟨exec_sends _ s d _ hd hok rfl, exec_sends _ s d _ hd hok rfl, exec_sends _ s d _ hd hok rfl,
    exec_sends _ s d _ hd hok ?_⟩
  rw [encode, encVcomhDeselect, vcomhPack_eq_ofNat]

/-- Settles O17: each form encodes to its own byte of the record. -/
theorem booleanCommandsRunToTheirByte : Obligations.BooleanCommandsRunToTheirByte := by
  intro s d hd hok
  exact ⟨exec_sends _ s d _ hd hok rfl, exec_sends _ s d _ hd hok rfl, exec_sends _ s d _ hd hok rfl,
    exec_sends _ s d _ hd hok rfl, exec_sends _ s d _ hd hok rfl, exec_sends _ s d _ hd hok rfl⟩

/-- Settles O18: the first of the two calls fails. -/
theorem lineFailureKeepsACommandOffTheBus : Obligations.LineFailureKeepsACommandOffTheBus := by
  intro i s d e hd h0
  rw [Script.get_zero] at h0
  rw [exec_eq_send, send_pinFailure _ s d e hd h0, Script.tail_eq_skip]

/-- Settles O19: the second of the two calls fails. -/
theorem writeFailureEndsACommand : Obligations.WriteFailureEndsACommand := by
  intro i s d e hd h0 h1
  rw [Script.get_zero] at h0
  rw [← Script.head_tail] at h1
  rw [exec_eq_send, send_commFailure _ s d e hd h0 h1, Script.tail_tail]

/-- What a Command answers, by the presence of the driver and the two answers: no driver, a call that never answers, or a
next state. -/
theorem exec_trichotomy (i : Instr) (s : State) :
    (s.driver = none ∧ exec i s = .refused .noDriver) ∨
    (s.driver ≠ none ∧ (s.answers.head = none ∨ (s.answers.head = some .ok ∧ s.answers.get 1 = none)) ∧
      exec i s = .fault .capabilityNeverAnswers) ∨
    (s.driver ≠ none ∧ ¬ (s.answers.head = none ∨ (s.answers.head = some .ok ∧ s.answers.get 1 = none)) ∧
      ∃ t, exec i s = .next t) := by
  rw [← Script.head_tail, exec_eq_send]
  cases hd : s.driver with
  | none => exact .inl ⟨rfl, send_noDriver _ s hd⟩
  | some d =>
    by_cases hn : s.answers.head = none ∨ (s.answers.head = some .ok ∧ s.answers.tail.head = none)
    · exact .inr (.inl ⟨Option.some_ne_none d, hn, send_never _ s d hd hn⟩)
    · refine .inr (.inr ⟨Option.some_ne_none d, hn, ?_⟩)
      match h0 : s.answers.head, h1 : s.answers.tail.head with
      | none, _ => exact absurd (.inl h0) hn
      | some (.error e), _ => exact ⟨_, send_pinFailure _ s d e hd h0⟩
      | some .ok, none => exact absurd (.inr ⟨h0, h1⟩) hn
      | some .ok, some (.error e) => exact ⟨_, send_commFailure _ s d e hd h0 h1⟩
      | some .ok, some .ok => exact ⟨_, send_ok _ s d hd h0 h1⟩

/-- Settles O20: the three cases exclude each other. -/
theorem commandStopsOnlyForWantOfInstanceOrAnswer : Obligations.CommandStopsOnlyForWantOfInstanceOrAnswer := by
  intro i s
  rcases exec_trichotomy i s with ⟨hd, he⟩ | ⟨hd, hn, he⟩ | ⟨hd, hn, t, he⟩
  · simp [he, hd]
  · simp [he, hd, hn]
  · simp [he, hd, hn]

/-- Everything a Command with a next state leaves alone, whatever the calls answered. -/
theorem exec_frame (i : Instr) (s t : State) (h : exec i s = .next t) :
    s.driver.isSome ∧ t.cfg = s.cfg ∧ t.driver = s.driver ∧ t.others = s.others ∧ t.requests = s.requests ∧
      t.delays = s.delays ∧ t.cmdbuf = none ∧ s.trace <+: t.trace ∧
      (t.op = none ∨ t.op = s.op.map fun r => { r with seq := r.seq + 2 }) := by
  rw [exec_eq_send] at h
  cases hd : s.driver with
  | none => rw [send_noDriver _ s hd] at h; cases h
  | some d =>
    rcases send_cases (encode s.cfg i) s d hd with h1 | ⟨e, -, h1⟩ | ⟨e, -, -, h1⟩ | ⟨-, -, h1⟩ <;> rw [h1] at h <;> cases h
    · exact ⟨rfl, rfl, hd, rfl, rfl, rfl, rfl, List.prefix_append _ _, .inl rfl⟩
    · exact ⟨rfl, rfl, hd, rfl, rfl, rfl, rfl, List.prefix_append _ _, .inl rfl⟩
    · exact ⟨rfl, rfl, hd, rfl, rfl, rfl, rfl, List.prefix_append _ _, .inr rfl⟩

/-- Settles O21. -/
theorem everyCommandLeavesTheBlockAlone : Obligations.EveryCommandLeavesTheBlockAlone := by
  intro i s t h
  obtain ⟨-, hcfg, hdriver, hothers, hreq, hdelays, hbuf, htrace, -⟩ := exec_frame i s t h
  refine ⟨hcfg, hdriver, hothers, hreq, hdelays, hbuf, htrace, fun d d' hd hd' => ?_⟩
  rw [hdriver, hd] at hd'
  cases hd'
  exact ⟨rfl, fun _ => rfl⟩

/-- A bare `send` at its start runs the Command in `CMDBUF`. -/
theorem step_bare_send (s : State) (i : Instr) (p : Bool) (hop : s.op = some { op := .send, seq := 0, pending := p })
    (hi : fetchCommand s = some i) : step s = finishOutcome (exec i s) := by
  simp only [step, hop, continueOperation, and_self, if_true, runCommand, hi]

/-- Settles O22. -/
theorem stepRunsTheDecodedCommand : Obligations.StepRunsTheDecodedCommand := by
  intro s b i rest p hop hb hdec
  have hi : fetchCommand s = some i := by rw [fetchCommand, hb]; simp only [hdec, Option.map_some]
  rw [step_bare_send s i p hop hi]
  cases exec i s <;> rfl

/-! A table word in the output array. -/

/-- The length that byte 0 demands is that of the encoding, whatever follows it (30_encoding.md R57). -/
theorem wireLenOf_head (cfg : Config) (i : Instr) (rest : List Byte) (h : cfg.distinctFirstBytes = true) :
    (encode cfg i ++ rest).head?.bind (wireLenOf cfg) = some (encode cfg i).length := by
  rw [List.head?_append_of_ne_nil _ (encode_ne_nil cfg i), encode_head, Option.bind_some, wireLenOf,
    opcodeOf_firstByte cfg _ h, Option.map_some, encode_length]

/-- The output array holds of a table word exactly the encoding that the decoder found. -/
theorem fetchBuffer_wire (cfg : Config) (nbits w : Nat) (i : Instr) (rest : List Byte) (hcfg : cfg.wf = true)
    (h : decode cfg (tableBytes nbits w) = some (i, rest)) : (fetchBuffer cfg nbits w).wire = encode cfg i := by
  obtain ⟨henc, -⟩ := encode_of_decode cfg _ rest i h
  simp only [fetchBuffer, CmdBuf.wire]
  rw [← henc, wireLenOf_head cfg i rest (Config.distinct_of_wf cfg hcfg), Option.getD_some, List.append_assoc,
    List.take_left]

theorem default_wf : Config.default.wf = true := by decide

/-- Settles O23: the placed word is fetched as the Command that the table's reading of it gives. -/
theorem placedTableWordRunsNext : Obligations.PlacedTableWordRunsNext := by
  intro s nbits w i hcfg hw
  obtain ⟨⟨j, rest⟩, hdec, hij⟩ := Option.map_eq_some_iff.1 hw
  cases hij
  have hback := decode_encode Config.default j [] default_wf
  rw [List.append_nil, Instr.masked_of_wf j (encode_of_decode _ _ _ _ hdec).2] at hback
  refine step_bare_send _ j false rfl ?_
  rw [fetchCommand, withFetchWord_cmdbuf, withFetchWord_cfg, hcfg]
  simp only [fetchBuffer_wire _ _ _ _ _ default_wf hdec, hback, Option.map_some]

end Sys2Proof.Machine

/-! PROOFS. The requests of the host (30_encoding.md R60): how each is taken up by an idle block. -/

namespace Sys2Proof.Machine

/-! ## Requests that start an operation (43_init_sequencer.md R132) -/

/-- The operation that a request with capability calls starts. -/
def Request.operation : Request → Option Operation
  | .reset line delay => some (.reset line delay)
  | .init => some .init
  | .flush => some .flush
  | .flushCooperative => some .flushCooperative
  | .setDrawArea sx sy ex ey => some (.setDrawArea sx sy ex ey)
  | .setRotation r => some (.setRotation r)
  | .turnOn => some .turnOn
  | .turnOff => some .turnOff
  | .new _ _ _ => none
  | .clear => none
  | .setPixel _ _ _ => none
  | .dimensions => none
  | .rotation => none
  | .release => none
  | .turnTo _ => none

theorem Request.wf_of_operation (cfg : Config) (q : Request) (op : Operation) (h : q.operation = some op) :
    q.wf cfg = true := by
  cases q <;> cases h <;> rfl

/-- A request with calls is taken up as the start of its operation, `reset` with a line that is free (60_exceptions.md R148). -/
theorem issue_eq_startOperation (q : Request) (op : Operation) (s : State) (h : q.operation = some op)
    (hline : ∀ line delay, op = .reset line delay → s.lineFree line) : issue q s = startOperation op s := by
  cases q with
  | reset line delay => cases h; exact opReset_free line delay s (hline line delay rfl)
  | _ => cases h <;> rfl

theorem startOperation_driver (op : Operation) (s : State) (d : Driver) (hd : s.driver = some d) :
    startOperation op s = .next { s with op := some { op := op, seq := 0, pending := false }, reply := none } := by
  simp only [startOperation, hd]

/-- The state in which a request with calls has been taken up: the operation stands at `seq = 0`. -/
def State.started (s : State) (op : Operation) (rest : List HostInput) : State :=
  { s with op := some { op := op, seq := 0, pending := false }, requests := rest, reply := none }

theorem step_starts (s : State) (d : Driver) (rest : List HostInput) (w : Bool) (q : Request) (op : Operation)
    (hd : s.driver = some d) (hop : s.op = none) (hq : s.requests = { request := q, waits := w } :: rest)
    (h : q.operation = some op) (hline : ∀ line delay, op = .reset line delay → s.lineFree line) :
    step s = .next (s.started op rest) := by
  rw [step_issues s q w rest hop hq (q.wf_of_operation _ op h),
    issue_eq_startOperation q op { s with requests := rest } h hline, startOperation_driver op { s with requests := rest } d hd]
  rfl

/-- Settles O28: each of the eight requests has its operation. -/
theorem requestsWithCallsStartAtSeqZero : Obligations.RequestsWithCallsStartAtSeqZero := by
  intro s d rest w q op hd hop hq hcase
  have hstart : q.operation = some op ∧ ∀ line delay, op = .reset line delay → s.lineFree line := by
    rcases hcase with hmem | ⟨r, rfl, rfl⟩ | ⟨a, b, rfl, rfl, hfree⟩ | ⟨a, b, c, e, rfl, rfl⟩
    · simp only [List.mem_cons, Prod.mk.injEq, List.not_mem_nil, or_false] at hmem
      rcases hmem with ⟨rfl, rfl⟩ | ⟨rfl, rfl⟩ | ⟨rfl, rfl⟩ | ⟨rfl, rfl⟩ | ⟨rfl, rfl⟩ <;>
        exact ⟨rfl, fun _ _ h => by cases h⟩
    · exact ⟨rfl, fun _ _ h => by cases h⟩
    · exact ⟨rfl, fun _ _ h => by cases h; exact hfree⟩
    · exact ⟨rfl, fun _ _ h => by cases h⟩
  exact step_starts s d rest w q op hd hop hq hstart.1 hstart.2

/-- Settles O32: the test for held lines, both ways. -/
theorem heldControlLineIsNotLentAsResetLine : Obligations.HeldControlLineIsNotLentAsResetLine := by
  intro s d rest w rst delay hd hop hq
  constructor
  · rintro ⟨e, he, hdc⟩
    rw [step_issues s _ w rest hop hq rfl]
    exact opReset_held rst delay { s with requests := rest } d hd fun hfree => hfree e he hdc
  · intro hfree
    refine ⟨_, step_starts s d rest w _ (.reset rst delay) hd hop hq rfl fun line delay h => ?_, rfl, rfl, rfl⟩
    cases h
    exact hfree

/-! ## Pixels (42_framebuffer.md R110 to R112) -/

theorem stride_eq_ite (r : Rotation) : stride r = if r = .rot0 ∨ r = .rot180 then 96 else 64 := by
  cases r <;> rfl

theorem byteIndex_eq (r : Rotation) (x y : Nat) :
    byteIndex r x y = (y * (if r = .rot0 ∨ r = .rot180 then 96 else 64) + x) * 2 := by
  rw [byteIndex, pixIndex, stride_eq_ite]

/-- R111: the third condition follows from the first two. -/
theorem inBounds_iff (r : Rotation) (x y : Nat) : inBounds r x y = true ↔
    if r = .rot0 ∨ r = .rot180 then x < 96 ∧ y < 64 else x < 64 ∧ y < 96 := by
  have hsize : FB_SIZE = 12288 := rfl
  simp only [inBounds, logicalDims_eq_ite, byteIndex_eq, Bool.and_eq_true, decide_eq_true_eq, hsize]
  split <;> dsimp only <;> omega

/-- Settles O36, for the two shapes of the buffer. -/
theorem pixelIndexChartsTheWholeBuffer : Obligations.PixelIndexChartsTheWholeBuffer := by
  intro r
  simp only [inBounds_iff, byteIndex_eq]
  by_cases hr : r = .rot0 ∨ r = .rot180
  · simp only [hr, if_true]
    exact ⟨fun x y => trivial, fun x y => trivial, fun x y h => by omega, fun x y x' y' h h' he => by omega,
      fun k hk => ⟨k % 96, k / 96, by omega, by omega⟩⟩
  · simp only [hr, if_false]
    exact ⟨fun x y => trivial, fun x y => trivial, fun x y h => by omega, fun x y x' y' h h' he => by omega,
      fun k hk => ⟨k % 64, k / 64, by omega, by omega⟩⟩

theorem colourHigh_toNat (c : Colour) : (colourHigh c).toNat = c.toNat / 256 := by
  rw [colourHigh, BitVec.toNat_setWidth, BitVec.toNat_ushiftRight, Nat.shiftRight_eq_div_pow]
  omega

theorem colourLow_toNat (c : Colour) : (colourLow c).toNat = c.toNat % 256 := BitVec.toNat_setWidth _ _

theorem setPixel_wf (cfg : Config) (x y : Nat) (c : Colour) (hx : x < 2 ^ cfg.coordBits) (hy : y < 2 ^ cfg.coordBits) :
    Request.wf cfg (.setPixel x y c) = true := by
  simp only [Request.wf, hx, hy, decide_true, Bool.and_self]

theorem issue_setPixel_outside (s : State) (d : Driver) (x y : Nat) (c : Colour) (hd : s.driver = some d)
    (h : inBounds d.rot x y = false) : issue (.setPixel x y c) s = .next (answerHost .nothing s) := by
  simp only [issue, opSetPixel, hd, h, Bool.false_eq_true, if_false]

/-- An in-bounds pixel is stored (R112): the memory that the write gives. -/
theorem issue_setPixel_inside (s : State) (d : Driver) (x y : Nat) (c : Colour) (hd : s.driver = some d)
    (h : inBounds d.rot x y = true) : ∃ m, Memory.write d.fb (byteIndex d.rot x y) (pixelBytes c) = some m ∧
      issue (.setPixel x y c) s = .next (answerHost .nothing (storeFramebuffer d m s)) := by
  have hw := (Memory.write_isSome d.fb (byteIndex d.rot x y) (pixelBytes c)).2 (inBounds_byteIndex _ _ _ h)
  obtain ⟨m, hm⟩ := Option.isSome_iff_exists.1 hw
  exact ⟨m, hm, by simp only [issue, opSetPixel, hd, h, if_true, hm]⟩

/-- What a canonical memory reads as after an in-bounds pixel is stored. -/
theorem read_pixel_write (m m' : Memory) (i : Nat) (c : Colour) (hwf : m.wf = true)
    (hw : m.write i (pixelBytes c) = some m') : m'.wf = true ∧ (m'.read i).toNat = c.toNat / 256 ∧
      (m'.read (i + 1)).toNat = c.toNat % 256 ∧ ∀ a, a ≠ i → a ≠ i + 1 → m'.read a = m.read a := by
  have hread := fun a => Memory.read_write_pair m m' i a (colourHigh c) (colourLow c) hwf hw
  refine ⟨Memory.write_wf m m' i _ hwf hw, ?_, ?_, fun a h1 h2 => ?_⟩
  · rw [hread, if_pos rfl, colourHigh_toNat]
  · rw [hread, if_neg (by omega), if_pos rfl, colourLow_toNat]
  · rw [hread, if_neg h1, if_neg h2]

/-- The step of an in-bounds pixel. -/
theorem step_setPixel_inside (s : State) (d : Driver) (rest : List HostInput) (w : Bool) (x y : Nat) (c : Colour)
    (hd : s.driver = some d) (hwf : Memory.wf d.fb = true) (hop : s.op = none)
    (hq : s.requests = { request := .setPixel x y c, waits := w } :: rest)
    (hx : x < 2 ^ s.cfg.coordBits) (hy : y < 2 ^ s.cfg.coordBits) (hin : inBounds d.rot x y = true) :
    ∃ m, step s = .next { s with driver := some { d with fb := m }, requests := rest, reply := some .nothing } ∧
      Memory.wf m = true ∧ (Memory.read m (byteIndex d.rot x y)).toNat = c.toNat / 256 ∧
      (Memory.read m (byteIndex d.rot x y + 1)).toNat = c.toNat % 256 ∧
      ∀ a, a ≠ byteIndex d.rot x y → a ≠ byteIndex d.rot x y + 1 → Memory.read m a = Memory.read d.fb a := by
  obtain ⟨m, hm, hissue⟩ := issue_setPixel_inside { s with requests := rest } d x y c hd hin
  refine ⟨m, ?_, read_pixel_write d.fb m _ c hwf hm⟩
  rw [step_issues s _ w rest hop hq (setPixel_wf s.cfg x y c hx hy), hissue]
  rfl

/-- Settles O37. -/
theorem setPixelStoresTwoBytesAtItsIndex : Obligations.SetPixelStoresTwoBytesAtItsIndex := by
  intro s d rest w x y c hd hwf hop hq hx hy hbx hby
  have hin : inBounds d.rot x y = true := by
    rw [inBounds_iff]
    by_cases hr : d.rot = .rot0 ∨ d.rot = .rot180
    · rw [if_pos hr] at hbx hby ⊢
      exact ⟨hbx, hby⟩
    · rw [if_neg hr] at hbx hby ⊢
      exact ⟨hbx, hby⟩
  exact step_setPixel_inside s d rest w x y c hd hwf hop hq hx hy hin

/-- Settles O38. -/
theorem outOfBoundsPixelIsSilentlyDropped : Obligations.OutOfBoundsPixelIsSilentlyDropped := by
  intro s d rest w x y c hd hop hq hx hy hout
  have hin : inBounds d.rot x y = false := by
    rw [← Bool.not_eq_true, inBounds_iff]
    by_cases hr : d.rot = .rot0 ∨ d.rot = .rot180
    · rw [if_pos hr, if_pos hr] at hout
      rw [if_pos hr]
      omega
    · rw [if_neg hr, if_neg hr] at hout
      rw [if_neg hr]
      omega
  rw [step_issues s _ w rest hop hq (setPixel_wf s.cfg x y c hx hy),
    issue_setPixel_outside { s with requests := rest } d x y c hd hin]
  rfl

/-! ## new and release (43_init_sequencer.md R125, R131) -/

/-- An idle driver is left as it is, before the others. -/
theorem setAside_idle (s : State) (hop : s.op = none) : setAside s = { s with
    driver := none
    others := (s.driver.map fun e => Instance.mk e false s.trace).toList ++ s.others } := by
  cases hd : s.driver with
  | none =>
    rw [setAside_none s hd]
    exact congrArg (fun o => { s with driver := o }) hd
  | some d =>
    rw [setAside_some s d hd, hop]
    rfl

/-- Settles O40: the test for held handles, both ways. -/
theorem newMakesTheInstance : Obligations.NewMakesTheInstance := by
  intro s rest w t dc r hop hq
  rw [step_issues s _ w rest hop hq rfl]
  have hiff : handleInUse t dc (setAside { s with requests := rest }).others = false ↔ s.unheld t dc :=
    handleInUse_iff t dc { s with requests := rest }
  constructor
  · intro hfree
    refine ⟨{ rot := r, fb := Memory.zeroed, bus := t, dc := dc }, ?_, rfl, rfl, rfl, Memory.zeroed_wf, Memory.read_zeroed⟩
    rw [issue, opNew, hiff.2 hfree, if_neg Bool.false_ne_true, setAside_idle { s with requests := rest } hop]
    rfl
  · intro hheld
    rw [← hiff, Bool.not_eq_false] at hheld
    rw [issue, opNew, hheld, if_pos rfl]

theorem issue_release (s : State) (d : Driver) (hd : s.driver = some d) :
    issue .release s = .next (answerHost (.handles d.bus d.dc) { s with driver := none }) := by
  simp only [issue, opRelease, hd]

/-- What a request on a missing driver answers (92 D26), `new` and the turning to a living one apart. -/
theorem issue_noDriver (q : Request) (s : State) (hd : s.driver = none) (hnew : ∀ t dc r, q ≠ .new t dc r)
    (hturn : ∀ a, q = .turnTo a → ∀ i, i ∈ s.others → i.driver.bus ≠ a) : issue q s = .refused .noDriver := by
  cases q with
  | new t dc r => exact absurd rfl (hnew t dc r)
  | turnTo a =>
    have hnone : s.others.find? (Instance.holds a) = none := by
      simpa [List.find?_eq_none, Instance.holds] using hturn a rfl
    simp only [issue, opTurnTo, setAside_none s hd, hnone]
  | _ =>
    simp [issue, hd, opReset, opInit, opClear, opSetPixel, opFlush, opFlushCooperative, opSetDrawArea, opDimensions,
      opSetRotation, opRotation, opTurnOn, opTurnOff, opRelease, startOperation]

/-- Settles O42. -/
theorem releaseEndsTheInstance : Obligations.ReleaseEndsTheInstance := by
  constructor
  · intro s d rest w hd hop hq
    rw [step_issues s _ w rest hop hq rfl, issue_release { s with requests := rest } d hd]
    rfl
  · intro s h rest hd hop hq hwf hnew hturn
    rw [step_issues s h.request h.waits rest hop hq hwf]
    exact issue_noDriver h.request { s with requests := rest } hd hnew hturn

/-! ## Every request -/

/-- Every request with a next state takes nothing but itself off the scripts, and only `new` and turning touch the others. -/
theorem issue_frame (q : Request) (s t : State) (h : issue q s = .next t) :
    t.requests = s.requests ∧ t.cfg = s.cfg ∧ t.answers = s.answers ∧ t.delays = s.delays ∧ t.cmdbuf = s.cmdbuf ∧
      (forAnother q = false → t.trace = s.trace ∧ t.others = s.others) := by
  rcases issue_cases q s t h with ⟨d, op, -, -, -, -, rfl⟩ | ⟨d, rep, -, -, rfl⟩ | ⟨d, -, rfl, rfl⟩ |
    ⟨d, x, y, c, m, -, rfl, -, -, rfl⟩ | ⟨d, -, rfl, rfl⟩ | ⟨a, b, r, rfl, -, rfl⟩ | ⟨a, i, rfl, -, rfl⟩ <;>
    simp [forAnother]

/-- Settles O43: nothing that a request can be refused for is there. -/
theorem wellTypedRequestsAreTakenUp : Obligations.WellTypedRequestsAreTakenUp := by
  intro s d h rest hd hop hq hwf hnew hreset hturn
  rw [step_issues s h.request h.waits rest hop hq hwf]
  cases hi : issue h.request { s with requests := rest } with
  | next t =>
    obtain ⟨hreq, hcfg, hans, -, -, hstay⟩ := issue_frame _ _ t hi
    exact ⟨t, rfl, hreq, hcfg, hans, hstay⟩
  | fault f => exact absurd hi (issue_ne_fault _ _ f)
  | refused f =>
    rcases issue_refused_cases _ _ f hi with ⟨-, hnone | ⟨a, ha, hno⟩⟩ |
      ⟨-, ⟨a, b, r, ha, hheld⟩ | ⟨line, delay, ha, -, hheld⟩⟩
    · rw [show s.driver = none from hnone] at hd
      cases hd
    · obtain ⟨e, he, hbus⟩ := hturn a ha
      exact absurd hbus (hno e he)
    · exact absurd (hnew a b r ha) hheld
    · exact absurd (hreset line delay ha) hheld

end Sys2Proof.Machine

/-! PROOFS. Rules of every step (10_state.md R24, section 4): what a step does to the driver it addresses and to the others. -/

namespace Sys2Proof.Machine

/-! ## What a step can do to the drivers -/

/-- Who writes `ROT` (41_rotation_geometry.md R104): `set_rotation` in progress, or nobody. -/
def RotationStored (s : State) (d : Driver) (rot : Rotation) : Prop :=
  rot = d.rot ∨ ∃ r, s.op = some r ∧ r.op = .setRotation rot

/-- Who writes `FB` (20_memory.md R45): `clear`, an in-bounds `set_pixel`, or nobody. -/
def BufferStored (s : State) (d : Driver) (fb : Memory) : Prop :=
  fb = d.fb ∨ (s.op = none ∧ ∃ h, s.requests.head? = some h ∧ ((h.request = .clear ∧ fb = Memory.zeroed) ∨
    ∃ x y c, h.request = .setPixel x y c ∧ inBounds d.rot x y = true ∧
      Memory.write d.fb (byteIndex d.rot x y) (pixelBytes c) = some fb))

/-- What a step from `s` to `t` does to the drivers: there is none addressed, the one addressed goes on, it is released, a new
one is made, or another one is turned to. -/
inductive StepEffect (s t : State) : Prop where
  | absent (before : s.driver = none) (after : t.driver = none) (others : t.others = s.others)
  | kept (d : Driver) (rot : Rotation) (fb : Memory) (before : s.driver = some d)
      (after : t.driver = some { d with rot := rot, fb := fb }) (others : t.others = s.others)
      (trace : s.trace <+: t.trace) (rotation : RotationStored s d rot) (buffer : BufferStored s d fb)
  | released (d : Driver) (h : HostInput) (before : s.driver = some d) (idle : s.op = none)
      (head : s.requests.head? = some h) (request : h.request = .release) (after : t.driver = none)
      (others : t.others = s.others)
  | made (h : HostInput) (a b : Handle) (r : Rotation) (head : s.requests.head? = some h)
      (request : h.request = .new a b r) (free : s.unheld a b)
      (after : t.driver = some { rot := r, fb := Memory.zeroed, bus := a, dc := b })
      (others : t.others = (setAside s).others)
  | turned (h : HostInput) (a : Handle) (i : Instance) (head : s.requests.head? = some h)
      (request : h.request = .turnTo a) (found : (setAside s).others.find? (Instance.holds a) = some i)
      (after : t.driver = some i.driver) (trace : t.trace = i.trace) (op : t.op.isSome = i.suspended)
      (others : t.others = (setAside s).others.eraseP (Instance.holds i.driver.bus))

/-- A driver as it stands: nothing stored. -/
theorem StepEffect.same {s t : State} (hd : t.driver = s.driver) (ho : t.others = s.others) (ht : s.trace <+: t.trace) :
    StepEffect s t := by
  cases h : s.driver with
  | none => exact .absent h (hd.trans h) ho
  | some d => exact .kept d d.rot d.fb h (hd.trans h) ho ht (.inl rfl) (.inl rfl)

theorem takeUp_op_isSome (i : Instance) (s : State) : (takeUp i s).op.isSome = i.suspended := by
  rw [takeUp_op]
  cases i.suspended <;> rfl

theorem setAside_others_requests (s : State) (rest : List HostInput) :
    (setAside { s with requests := rest }).others = (setAside s).others := by
  rcases s with ⟨cfg, _ | d, others⟩ <;> rfl

/-- A request is the head of the script; one for the driver itself comes only when that is idle. -/
theorem request_effect (s t : State) (q : HostInput) (rest : List HostInput) (hq : s.requests = q :: rest)
    (hidle : forAnother q.request = false → s.op = none) (h : issue q.request { s with requests := rest } = .next t) :
    t.cfg = s.cfg ∧ StepEffect s t := by
  have hhead : s.requests.head? = some q := by rw [hq, List.head?_cons]
  rcases issue_cases q.request _ t h with ⟨d, op, -, -, -, -, rfl⟩ | ⟨d, rep, -, -, rfl⟩ | ⟨d, hd, hr, rfl⟩ |
    ⟨d, x, y, c, m, hd, hr, hin, hw, rfl⟩ | ⟨d, hd, hr, rfl⟩ | ⟨a, b, r, hr, hfree, rfl⟩ | ⟨a, i, hr, hf, rfl⟩
  · exact ⟨rfl, .same rfl rfl List.prefix_rfl⟩
  · exact ⟨rfl, .same rfl rfl List.prefix_rfl⟩
  · exact ⟨rfl, .kept d d.rot Memory.zeroed hd rfl rfl List.prefix_rfl (.inl rfl)
      (.inr ⟨hidle (by rw [hr]; rfl), q, hhead, .inl ⟨hr, rfl⟩⟩)⟩
  · exact ⟨rfl, .kept d d.rot m hd rfl rfl List.prefix_rfl (.inl rfl)
      (.inr ⟨hidle (by rw [hr]; rfl), q, hhead, .inr ⟨x, y, c, hr, hin, hw⟩⟩)⟩
  · exact ⟨rfl, .released d q hd (hidle (by rw [hr]; rfl)) hhead hr rfl rfl⟩
  · exact ⟨by simp, .made q a b r hhead hr ((handleInUse_iff a b { s with requests := rest }).1 hfree) rfl
      (setAside_others_requests s rest)⟩
  · rw [setAside_others_requests] at hf
    exact ⟨by simp, .turned q a i hhead hr hf rfl rfl (takeUp_op_isSome i _)
      (congrArg (List.eraseP _) (setAside_others_requests s rest))⟩

/-- What a micro-step changes of the driver: at most `ROT`, by its store. -/
theorem microStep_frame (r : Running) (d : Driver) (m : MicroStep) (s t : State) (hd : s.driver = some d)
    (h : microStep r d m s = .next t) : t.cfg = s.cfg ∧ t.others = s.others ∧ s.trace <+: t.trace ∧
      ∃ rot, t.driver = some { d with rot := rot } ∧ (rot = d.rot ∨ m.store = some rot) := by
  have hrot : m.store.getD d.rot = d.rot ∨ m.store = some (m.store.getD d.rot) := by
    cases m.store with
    | none => exact .inl rfl
    | some r => exact .inr rfl
  have hprep := prepare_driver m s d hd
  rcases microStep_next_cases r d m s t h with ⟨-, rfl⟩ | ⟨ev, -, -, -, rfl⟩ | ⟨-, -, rfl⟩ | ⟨ev, e, kind, -, -, -, -, rfl⟩
  · exact ⟨rfl, rfl, List.prefix_rfl, d.rot, hd, .inl rfl⟩
  all_goals exact ⟨by simp, by simp, by simp, _, by simpa using hprep, hrot⟩

theorem leavesSuspended_forAnother (r : Running) (s : State) (q : HostInput) (rest : List HostInput)
    (hq : s.requests = q :: rest) (h : leavesSuspended r s = true) : forAnother q.request = true :=
  ((leavesSuspended_iff r s q rest hq).1 h).2.2

/-- Everything a step can do to the drivers; the record it leaves alone. -/
theorem step_effect (s t : State) (h : step s = .next t) : t.cfg = s.cfg ∧ StepEffect s t := by
  rcases step_next_cases s t h with ⟨-, -, rfl⟩ | ⟨q, rest, hop, hq, -, hi⟩ | ⟨r, i, u, -, -, -, -, he, rfl⟩ |
    ⟨r, d, hr, hd, -, -, ⟨-, rfl⟩ | ⟨m, hm, hmicro⟩⟩
  · exact ⟨rfl, .same rfl rfl List.prefix_rfl⟩
  · refine request_effect s t q rest hq (fun hself => ?_) hi
    rcases hop with hnone | ⟨r, -, hleave⟩
    · exact hnone
    · rw [leavesSuspended_forAnother r s q rest hq hleave] at hself
      cases hself
  · obtain ⟨-, hcfg, hdriver, hothers, -, -, -, htrace, -⟩ := exec_frame i s u he
    exact ⟨by rw [finish_cfg, hcfg], .same (by rw [finish_driver, hdriver]) (by rw [finish_others, hothers])
      (by rwa [finish_trace])⟩
  · exact ⟨rfl, .same rfl rfl List.prefix_rfl⟩
  · obtain ⟨hcfg, hothers, htrace, rot, hafter, hrot⟩ := microStep_frame r d m s t hd hmicro
    refine ⟨hcfg, .kept d rot d.fb hd hafter hothers htrace ?_ (.inl rfl)⟩
    rcases hrot with hrot | hstore
    · exact .inl hrot
    · rcases store_only _ _ _ _ _ _ hm hstore with hop | ⟨-, hrot⟩
      · exact .inr ⟨r, hr, hop⟩
      · exact .inl hrot

/-! ## The driver addressed, known by its transport -/

/-- Turning to the transport of the addressed driver finds that driver. -/
theorem find_addressed (s : State) (d : Driver) (i : Instance) (a : Handle) (hd : s.driver = some d) (ha : d.bus = a)
    (hf : (setAside s).others.find? (Instance.holds a) = some i) : i.driver = d := by
  rw [setAside_some s d hd, List.find?_cons_of_pos (by simp [Instance.holds, ha])] at hf
  cases hf
  rfl

/-- A step that stays with a driver, the same transport before and after, stores what its operation or request stores. -/
theorem step_same_transport (s t : State) (d d' : Driver) (h : step s = .next t) (hd : s.driver = some d)
    (hd' : t.driver = some d') (hbus : d'.bus = d.bus) : RotationStored s d d'.rot ∧ BufferStored s d d'.fb := by
  cases (step_effect s t h).2 with
  | absent before after others => rw [hd] at before; cases before
  | kept d₁ rot fb before after others trace rotation buffer =>
    rw [hd] at before
    rw [hd'] at after
    cases before
    cases after
    exact ⟨rotation, buffer⟩
  | released d₁ h₁ before idle head request after others => rw [hd'] at after; cases after
  | made h₁ a b r head request free after others =>
    rw [hd'] at after
    cases after
    exact absurd hbus.symm (free d (by simp [State.instances, hd])).1
  | turned h₁ a i head request found after trace op others =>
    rw [hd'] at after
    cases after
    rw [find_addressed s d i a hd (by rw [← hbus, (find_holds a _ i found).2]) found]
    exact ⟨.inl rfl, .inl rfl⟩

/-- Settles O49. -/
theorem onlySetRotationChangesTheRotation : Obligations.OnlySetRotationChangesTheRotation := by
  intro s t d d' h hd hd' hbus hrot
  exact (step_same_transport s t d d' h hd hd' hbus).1.resolve_left hrot

/-- Settles O50: of the two writers of `FB`, `set_pixel` writes its two bytes. -/
theorem onlyPixelsAndClearChangeTheBuffer : Obligations.OnlyPixelsAndClearChangeTheBuffer := by
  intro s t d d' a hinv h hd hd' hbus hread
  obtain ⟨hop, q, hhead, hwriter⟩ := (step_same_transport s t d d' h hd hd' hbus).2.resolve_left
    fun hfb => hread (by rw [hfb])
  refine ⟨hop, q, hhead, ?_⟩
  rcases hwriter with ⟨hclear, -⟩ | ⟨x, y, c, hpix, hin, hw⟩
  · exact .inl hclear
  · have hwf : Memory.wf d.fb = true := hinv.memory d (by simp [State.instances, hd])
    have hrest := (read_pixel_write d.fb d'.fb _ c hwf hw).2.2.2 a
    exact .inr ⟨x, y, c, hpix, hin, by by_contra hne; rw [not_or] at hne; exact hread (hrest hne.1 hne.2)⟩

/-- The addressed driver stands first among the others once it is set aside. -/
theorem addressed_mem_setAside (s : State) (d : Driver) (hd : s.driver = some d) :
    Instance.mk d s.op.isSome s.trace ∈ (setAside s).others := by
  rw [setAside_some s d hd]
  exact List.mem_cons_self

/-- One of several drivers is taken out by a removal by transport only if it is the one found. -/
theorem mem_eraseP_or_found (is : List Instance) (a : Handle) (i j : Instance)
    (hf : is.find? (Instance.holds a) = some i) (hj : j ∈ is) : j ∈ is.eraseP (Instance.holds i.driver.bus) ∨ j = i := by
  rw [← (find_holds a is i hf).2] at hf
  rcases List.mem_cons.1 ((find_cons_eraseP_perm is _ i hf).mem_iff.2 hj) with rfl | hmem
  · exact .inr rfl
  · exact .inl hmem

/-- Settles O51. -/
theorem stepKeepsRecordHandlesAndTrace : Obligations.StepKeepsRecordHandlesAndTrace := by
  intro s t h
  obtain ⟨hcfg, heffect⟩ := step_effect s t h
  refine ⟨hcfg, fun d hd => ?_⟩
  cases heffect with
  | absent before after others => rw [hd] at before; cases before
  | kept d₁ rot fb before after others trace rotation buffer =>
    rw [hd] at before
    cases before
    exact .inl ⟨_, after, rfl, rfl, trace⟩
  | released d₁ h₁ before idle head request after others => exact .inr (.inr ⟨after, others, idle, h₁, head, request⟩)
  | made h₁ a b r head request free after others =>
    refine .inr (.inl ⟨?_, h₁, head, by rw [request]; rfl⟩)
    rw [others]
    exact addressed_mem_setAside s d hd
  | turned h₁ a i head request found after trace op others =>
    rcases mem_eraseP_or_found _ a i _ found (addressed_mem_setAside s d hd) with hmem | hi
    · rw [← others] at hmem
      exact .inr (.inl ⟨hmem, h₁, head, by rw [request]; rfl⟩)
    · subst hi
      exact .inl ⟨d, after, rfl, rfl, by rw [trace]⟩

/-- Settles O52. -/
theorem stepLeavesOtherInstancesAlone : Obligations.StepLeavesOtherInstancesAlone := by
  intro s t i h hi
  cases (step_effect s t h).2 with
  | absent before after others => exact .inl (others ▸ hi)
  | kept d₁ rot fb before after others trace rotation buffer => exact .inl (others ▸ hi)
  | released d₁ h₁ before idle head request after others => exact .inl (others ▸ hi)
  | made h₁ a b r head request free after others => exact .inl (others ▸ others_setAside s i hi)
  | turned h₁ a j head request found after trace op others =>
    rcases mem_eraseP_or_found _ a j i found (others_setAside s i hi) with hmem | rfl
    · exact .inl (others ▸ hmem)
    · exact .inr ⟨after, trace, op, h₁, head, by rw [request, (find_holds a _ _ found).2]⟩

end Sys2Proof.Machine

/-! PROOFS. The invariant of a run (Sys2Proof/Safety.lean): in two parts, one of the drivers and one of the operation in
progress. -/

namespace Sys2Proof.Machine

/-! ## The Command in CMDBUF (10_state.md R15) -/

/-- Inside an operation a Command is loaded by exactly the micro-steps that drive the line to the command level. -/
theorem load_isSome (cfg : Config) (rot : Rotation) (op : Operation) (m : MicroStep) (k : Nat) (hop : op ≠ .send)
    (hm : (microSteps cfg rot op)[k]? = some m) : m.load.isSome = decide (m.call = .dcCommand) := by
  have hloads := congrArg (fun l => l[k]?) (loads_eq cfg rot op hop)
  simpa [List.getElem?_map, hm, ← call_at cfg rot op k] using hloads

theorem callsOf_at (cfg : Config) (rot : Rotation) (op : Operation) (m : MicroStep) (k : Nat)
    (hm : (microSteps cfg rot op)[k]? = some m) : (callsOf op)[k]? = some m.call := by
  rw [← call_at cfg rot op k, hm, Option.map_some]

theorem callsOf_length (cfg : Config) (rot : Rotation) (op : Operation) :
    (callsOf op).length = (microSteps cfg rot op).length := by
  rw [← calls_eq cfg rot op, List.length_map]

/-- No value is in `CMDBUF` where the next call is no write of a Command. -/
theorem bufferBefore_none (cfg : Config) (rot : Rotation) (op : Operation) (k : Nat)
    (h : (callsOf op)[k]? ≠ some .busCommand) : bufferBefore cfg (microSteps cfg rot op) k = none := by
  rw [bufferBefore, call_at, if_neg h]

/-- After a micro-step `CMDBUF` has the Command that the micro-step loaded, if any. -/
theorem bufferBefore_succ (cfg : Config) (rot : Rotation) (op : Operation) (m : MicroStep) (k : Nat) (hop : op ≠ .send)
    (hm : (microSteps cfg rot op)[k]? = some m) : bufferBefore cfg (microSteps cfg rot op) (k + 1) =
      m.load.map fun i => CmdBuf.ofWire cfg.cmdArraySize (encode cfg i) := by
  have hload := load_isSome cfg rot op m k hop hm
  have hnext : (callsOf op)[k + 1]? = some .busCommand ↔ m.call = .dcCommand := by
    rw [(calls_shape op k).1, callsOf_at cfg rot op m k hm, Option.some_inj]
  rw [bufferBefore, call_at, Nat.add_sub_cancel, hm, Option.bind_some]
  by_cases hc : m.call = .dcCommand
  · rw [if_pos (hnext.2 hc)]
  · rw [if_neg (mt hnext.1 hc)]
    rw [decide_eq_false hc, Option.isSome_eq_false_iff, Option.isNone_iff_eq_none] at hload
    rw [hload, Option.map_none]

/-- Before the write of a Command `CMDBUF` has one. -/
theorem bufferBefore_busCommand (cfg : Config) (rot : Rotation) (op : Operation) (k : Nat) (hop : op ≠ .send)
    (h : (callsOf op)[k]? = some .busCommand) :
    ∃ i, ((microSteps cfg rot op)[k - 1]?).bind MicroStep.load = some i ∧
      bufferBefore cfg (microSteps cfg rot op) k = some (CmdBuf.ofWire cfg.cmdArraySize (encode cfg i)) := by
  cases k with
  | zero => exact absurd h (calls_shape op 0).2.1
  | succ k =>
    have hline := (calls_shape op k).1.1 h
    rw [← call_at cfg rot op k] at hline
    obtain ⟨m, hm, hc⟩ := Option.map_eq_some_iff.1 hline
    have hload := load_isSome cfg rot op m k hop hm
    rw [decide_eq_true hc] at hload
    obtain ⟨i, hi⟩ := Option.isSome_iff_exists.1 hload
    refine ⟨i, by rw [Nat.add_sub_cancel, hm, Option.bind_some, hi], ?_⟩
    rw [bufferBefore_succ cfg rot op m k hop hm, hi, Option.map_some]

/-- What `CMDBUF` holds after the call of a micro-step, if it held the Command of the one before. -/
theorem buffer_after_call (cfg : Config) (rot : Rotation) (op : Operation) (m : MicroStep) (k : Nat) (hop : op ≠ .send)
    (hm : (microSteps cfg rot op)[k]? = some m) (s : State) (hcfg : s.cfg = cfg)
    (hbuf : s.cmdbuf = bufferBefore cfg (microSteps cfg rot op) k) :
    (if m.call = .busCommand then none else (prepare m s).cmdbuf) = bufferBefore cfg (microSteps cfg rot op) (k + 1) := by
  have hload := load_isSome cfg rot op m k hop hm
  rw [bufferBefore_succ cfg rot op m k hop hm, prepare_cmdbuf, hcfg]
  cases hl : m.load with
  | some i =>
    have hc : m.call = .dcCommand := by simpa [hl] using hload
    rw [if_neg (by rw [hc]; decide), Option.map_some]
  | none =>
    split
    next => rfl
    next hc => exact hbuf.trans (bufferBefore_none cfg rot op k (by rw [callsOf_at cfg rot op m k hm]; simpa using hc))

/-! ## The two parts of the invariant -/

/-- What holds of the living drivers: canonical memories, a transport and a control line each (R24). -/
structure Housed (ds : List Driver) : Prop where
  memory : ∀ d, d ∈ ds → Memory.wf d.fb = true
  transports : (ds.map Driver.bus).Nodup
  lines : (ds.map Driver.dc).Nodup

/-- What holds of the operation in progress, or of there being none. -/
def Controlled (s : State) : Prop :=
  (s.op = none ∧ s.cmdbuf = none) ∨ ∃ r d, s.op = some r ∧ s.driver = some d ∧ Walking s r d

theorem inv_iff (s : State) : Inv s ↔ Housed s.instances ∧ Controlled s := by
  constructor
  · intro h
    refine ⟨⟨h.memory, h.transports, h.lines⟩, ?_⟩
    cases hop : s.op with
    | none => exact .inl ⟨hop, h.idle hop⟩
    | some r =>
      obtain ⟨d, hd⟩ := Option.isSome_iff_exists.1 (h.owned (by rw [hop]; rfl))
      exact .inr ⟨r, d, hop, hd, h.walking r d hop hd⟩
  · rintro ⟨⟨hmem, htr, hln⟩, hc⟩
    rcases hc with ⟨hop, hbuf⟩ | ⟨r, d, hop, hd, hwalk⟩
    · exact ⟨hmem, htr, hln, fun h => (by rw [hop] at h; cases h), fun _ => hbuf,
        fun r d h => (by rw [hop] at h; cases h)⟩
    · refine ⟨hmem, htr, hln, fun _ => by rw [hd]; rfl, fun h => (by rw [hop] at h; cases h), fun r' d' hr' hd' => ?_⟩
      rw [hop] at hr'
      rw [hd] at hd'
      cases hr'
      cases hd'
      exact hwalk

theorem Housed.perm {ds es : List Driver} (h : Housed ds) (hp : es.Perm ds) : Housed es :=
  ⟨fun d hd => h.memory d (hp.mem_iff.1 hd), (hp.map _).nodup_iff.2 h.transports, (hp.map _).nodup_iff.2 h.lines⟩

theorem Housed.tail {d : Driver} {ds : List Driver} (h : Housed (d :: ds)) : Housed ds :=
  ⟨fun e he => h.memory e (List.mem_cons_of_mem d he), (List.nodup_cons.1 h.transports).2, (List.nodup_cons.1 h.lines).2⟩

/-- A driver with handles of its own comes to live beside the others. -/
theorem Housed.cons {d : Driver} {ds : List Driver} (h : Housed ds) (hm : Memory.wf d.fb = true)
    (hfree : ∀ e, e ∈ ds → e.bus ≠ d.bus ∧ e.dc ≠ d.dc) : Housed (d :: ds) := by
  refine ⟨fun e he => ?_, List.nodup_cons.2 ⟨fun hb => ?_, h.transports⟩, List.nodup_cons.2 ⟨fun hb => ?_, h.lines⟩⟩
  · rcases List.mem_cons.1 he with rfl | he
    · exact hm
    · exact h.memory e he
  · obtain ⟨e, he, hbus⟩ := List.mem_map.1 hb
    exact (hfree e he).1 hbus
  · obtain ⟨e, he, hdc⟩ := List.mem_map.1 hb
    exact (hfree e he).2 hdc

/-- What a driver stores does not touch its handles. -/
theorem Housed.store {d : Driver} {ds : List Driver} (h : Housed (d :: ds)) (rot : Rotation) (fb : Memory)
    (hm : Memory.wf fb = true) : Housed ({ d with rot := rot, fb := fb } :: ds) := by
  refine ⟨fun e he => ?_, h.transports, h.lines⟩
  rcases List.mem_cons.1 he with rfl | he
  · exact hm
  · exact h.memory e (List.mem_cons_of_mem d he)

theorem instances_some (s : State) (d : Driver) (hd : s.driver = some d) :
    s.instances = d :: s.others.map Instance.driver := by
  rw [State.instances, hd]
  rfl

theorem instances_none (s : State) (hd : s.driver = none) : s.instances = s.others.map Instance.driver := by
  rw [State.instances, hd]
  rfl

theorem BufferStored.wf {s : State} {d : Driver} {fb : Memory} (h : BufferStored s d fb) (hm : Memory.wf d.fb = true) :
    Memory.wf fb = true := by
  rcases h with rfl | ⟨-, q, -, ⟨-, rfl⟩ | ⟨x, y, c, -, -, hw⟩⟩
  · exact hm
  · exact Memory.zeroed_wf
  · exact Memory.write_wf d.fb fb _ _ hm hw

/-- The first part of the invariant is kept by every step. -/
theorem step_housed (s t : State) (h : step s = .next t) (hs : Housed s.instances) : Housed t.instances := by
  cases (step_effect s t h).2 with
  | absent before after others => rwa [instances_none t after, others, ← instances_none s before]
  | kept d rot fb before after others trace rotation buffer =>
    rw [instances_some s d before] at hs
    rw [instances_some t _ after, others]
    exact hs.store rot fb (buffer.wf (hs.memory d List.mem_cons_self))
  | released d q before idle head request after others =>
    rw [instances_some s d before] at hs
    rw [instances_none t after, others]
    exact hs.tail
  | made q a b r head request free after others =>
    rw [instances_some t _ after, others, setAside_others_drivers]
    exact hs.cons Memory.zeroed_wf free
  | turned q a i head request found after trace op others =>
    have hperm : t.instances.Perm s.instances := by
      rw [instances_some t _ after, others, ← takeUp_others, ← instances_some (takeUp i (setAside s)) _ rfl]
      exact takeUp_instances_perm s a i found
    exact hs.perm hperm

/-! ## The operation in progress -/

theorem finish_advance (s : State) (r : Running) (d : Driver) (hr : s.op = some r) (hd : s.driver = some d) :
    ((microSteps s.cfg d.rot r.op).length ≤ r.seq + 1 ∧ finish (advance s) = endOperation .ok (advance s)) ∨
    (r.seq + 1 < (microSteps s.cfg d.rot r.op).length ∧ finish (advance s) = advance s) := by
  have hop : (advance s).op = some { r with seq := r.seq + 1 } := by rw [advance_op, hr, Option.map_some]
  by_cases h : (microSteps s.cfg d.rot r.op).length ≤ r.seq + 1
  · exact .inl ⟨h, finish_done (advance s) _ d hop hd h⟩
  · exact .inr ⟨by omega, finish_before (advance s) _ d hop hd (by rw [advance_cfg]; exact Nat.lt_of_not_le h)⟩

/-- Where a micro-step leaves its operation: suspended, ended, or one further, one event later. -/
theorem microStep_progress (r : Running) (d : Driver) (m : MicroStep) (s t : State) (hr : s.op = some r)
    (hd : s.driver = some d) (hm : (microSteps s.cfg d.rot r.op)[r.seq]? = some m) (h : microStep r d m s = .next t) :
    (suspendsBefore r m = true ∧ t = { s with op := some { r with pending := true } }) ∨
    (t.op = none ∧ t.cmdbuf = none) ∨
    (t.op = some { r with seq := r.seq + 1 } ∧ r.seq + 1 < (microSteps s.cfg d.rot r.op).length ∧
      t.driver = some { d with rot := m.store.getD d.rot } ∧ t.trace.length = s.trace.length + 1 ∧
      t.cmdbuf = if m.call = .busCommand then none else (prepare m s).cmdbuf) := by
  have hsteps := microSteps_store s.cfg d.rot r.op m r.seq hm
  have hprep := prepare_driver m s d hd
  have hprepop : (prepare m s).op = some r := by rw [prepare_op, hr]
  rcases microStep_next_cases r d m s t h with ⟨hsus, rfl⟩ | ⟨ev, -, -, -, rfl⟩ | ⟨hdelay, -, rfl⟩ |
    ⟨ev, e, kind, -, -, -, -, rfl⟩
  · exact .inl ⟨hsus, rfl⟩
  · rcases finish_advance { prepare m s with
        trace := (prepare m s).trace ++ [ev .ok]
        answers := (prepare m s).answers.tail
        cmdbuf := if m.call = .busCommand then none else (prepare m s).cmdbuf } r _ hprepop hprep with
      ⟨-, hf⟩ | ⟨hlt, hf⟩ <;> rw [hf]
    · exact .inr (.inl ⟨rfl, rfl⟩)
    · rw [prepare_cfg, hsteps] at hlt
      exact .inr (.inr ⟨by simp [hr], hlt, hprep, by simp, rfl⟩)
  · rcases finish_advance { prepare m s with
        trace := (prepare m s).trace ++ [.delayMs (prepare m s).cfg.resetDelayMs]
        delays := (prepare m s).delays.tail } r _ hprepop hprep with ⟨-, hf⟩ | ⟨hlt, hf⟩ <;> rw [hf]
    · exact .inr (.inl ⟨rfl, rfl⟩)
    · rw [prepare_cfg, hsteps] at hlt
      exact .inr (.inr ⟨by simp [hr], hlt, hprep, by simp, by simp [hdelay]⟩)
  · exact .inr (.inl ⟨rfl, rfl⟩)

/-- Only a cooperative `flush` suspends, before its sixth micro-step, with no value in `CMDBUF`. -/
theorem suspendsBefore_at (cfg : Config) (rot : Rotation) (r : Running) (m : MicroStep)
    (hm : (microSteps cfg rot r.op)[r.seq]? = some m) (h : suspendsBefore r m = true) :
    r.op = .flushCooperative ∧ r.seq = 5 ∧ r.pending = false := by
  obtain ⟨hop, hcall, hp⟩ := (suspends_only r m).1 h
  have hat := callsOf_at cfg rot r.op m r.seq hm
  exact ⟨hop, (calls_shape r.op r.seq).2.2 hop (by rw [hat, hcall]), hp⟩

theorem lineFree_congr (s t : State) (d d' : Driver) (hd : s.driver = some d) (hd' : t.driver = some d')
    (hdc : d'.dc = d.dc) (ho : t.others = s.others) (line : Handle) (h : s.lineFree line) : t.lineFree line := by
  rw [State.lineFree, instances_some s d hd, List.forall_mem_cons] at h
  rw [State.lineFree, instances_some t d' hd', ho, List.forall_mem_cons, hdc]
  exact h

/-- One micro-step of a list keeps the second part of the invariant. -/
theorem microStep_controlled (s t : State) (r : Running) (d : Driver) (m : MicroStep) (hr : s.op = some r)
    (hd : s.driver = some d) (hop : r.op ≠ .send) (hwalk : Walking s r d)
    (hm : (microSteps s.cfg d.rot r.op)[r.seq]? = some m) (h : microStep r d m s = .next t) : Controlled t := by
  obtain ⟨hcfg, hothers, -⟩ := microStep_frame r d m s t hd h
  rcases microStep_progress r d m s t hr hd hm h with ⟨hsus, rfl⟩ | hend | ⟨hop', hlt, hd', -, hbuf⟩
  · obtain ⟨hcoop, hseq, -⟩ := suspendsBefore_at s.cfg d.rot r m hm hsus
    exact .inr ⟨_, d, rfl, hd, fun h => absurd h hop, hwalk.position, hwalk.buffer, fun _ => ⟨hcoop, hseq⟩, hwalk.lent⟩
  · exact .inl hend
  · have hsteps := microSteps_store s.cfg d.rot r.op m r.seq hm
    refine .inr ⟨_, _, hop', hd', fun h => absurd h hop, fun _ => ?_, fun _ => ?_, fun hp => ?_, fun line delay hreset => ?_⟩
    · rw [hcfg, hsteps]
      exact hlt
    · rw [hcfg, hsteps, hbuf]
      exact buffer_after_call s.cfg d.rot r.op m r.seq hop hm s rfl (hwalk.buffer hop)
    · obtain ⟨hcoop, hseq⟩ := hwalk.suspended hp
      rw [hcoop, hseq, ← callsOf_length] at hlt
      exact absurd hlt (by decide)
    · exact lineFree_congr s t d _ hd hd' rfl hothers line (hwalk.lent line delay hreset)

theorem callsOf_pos (op : Operation) : 0 < (callsOf op).length := by
  cases op <;> exact Nat.zero_lt_succ _

/-- An operation at its start. -/
theorem walking_start (s : State) (d : Driver) (op : Operation) (hop : op ≠ .send) (hbuf : s.cmdbuf = none)
    (hlent : ∀ line delay, op = .reset line delay → s.lineFree line) :
    Walking s { op := op, seq := 0, pending := false } d := by
  refine ⟨fun h => absurd h hop, fun _ => ?_, fun _ => ?_, fun h => (by cases h), hlent⟩
  · rw [← callsOf_length]
    exact callsOf_pos op
  · rw [hbuf, bufferBefore_none _ _ _ _ (calls_shape op 0).2.1]

/-- A cooperative `flush` that waits for the answer of its data write. -/
theorem walking_suspendedFlush (s : State) (d : Driver) (hbuf : s.cmdbuf = none) : Walking s suspendedFlush d := by
  refine ⟨fun h => (by cases h), fun _ => (by rw [← callsOf_length]; decide), fun _ => ?_, fun _ => ⟨rfl, rfl⟩,
    fun _ _ h => (by cases h)⟩
  rw [hbuf, bufferBefore_none _ _ _ _ (by decide)]

theorem Walking.buffer_of_pending {s : State} {r : Running} {d : Driver} (h : Walking s r d) (hp : r.pending = true) :
    s.cmdbuf = none := by
  obtain ⟨hop, hseq⟩ := h.suspended hp
  rw [h.buffer (by rw [hop]; decide), hop, hseq, bufferBefore_none _ _ _ _ (by decide)]

/-- Where a request is taken up, `CMDBUF` has no value. -/
theorem Controlled.buffer_of_request {s : State} (hc : Controlled s)
    (h : s.op = none ∨ ∃ r, s.op = some r ∧ leavesSuspended r s = true) : s.cmdbuf = none := by
  rcases hc with ⟨-, hbuf⟩ | ⟨r, d, hr, hd, hwalk⟩
  · exact hbuf
  · rcases h with hnone | ⟨r', hr', hleave⟩
    · rw [hr] at hnone
      cases hnone
    · rw [hr] at hr'
      cases hr'
      refine hwalk.buffer_of_pending ?_
      cases hq : s.requests with
      | nil => rw [leavesSuspended, hq] at hleave; cases hleave
      | cons q rest => exact ((leavesSuspended_iff r s q rest hq).1 hleave).1

/-- A request that is taken up keeps the second part of the invariant. -/
theorem issue_controlled (q : Request) (s t : State) (hc : Controlled s) (hbuf : s.cmdbuf = none)
    (hidle : forAnother q = false → s.op = none) (h : issue q s = .next t) : Controlled t := by
  have hbuf' : t.cmdbuf = none := by rw [(issue_frame q s t h).2.2.2.2.1, hbuf]
  rcases issue_cases q s t h with ⟨d, op, hd, -, hop, hlent, rfl⟩ | ⟨d, rep, -, hself, rfl⟩ | ⟨d, -, rfl, rfl⟩ |
    ⟨d, x, y, c, m, -, rfl, -, -, rfl⟩ | ⟨d, -, rfl, rfl⟩ | ⟨a, b, r, rfl, -, rfl⟩ | ⟨a, i, rfl, -, rfl⟩
  · exact .inr ⟨_, d, rfl, hd, walking_start _ d op hop hbuf hlent⟩
  · exact .inl ⟨hidle hself, hbuf'⟩
  · exact .inl ⟨hidle rfl, hbuf'⟩
  · exact .inl ⟨hidle rfl, hbuf'⟩
  · exact .inl ⟨hidle rfl, hbuf'⟩
  · refine .inl ⟨?_, hbuf'⟩
    rcases hc with ⟨hop, -⟩ | ⟨r', d, -, hd, -⟩
    · rw [setAside_idle s hop]
      exact hop
    · rw [setAside_some s d hd]
      rfl
  · cases hs : i.suspended with
    | false => exact .inl ⟨by rw [takeUp_op, hs]; rfl, hbuf'⟩
    | true => exact .inr ⟨_, _, by rw [takeUp_op, hs]; rfl, rfl, walking_suspendedFlush _ _ hbuf'⟩

/-- A bare `send` runs whole and ends. -/
theorem exec_send_ends (s u : State) (r : Running) (d : Driver) (i : Instr) (hr : s.op = some r) (hd : s.driver = some d)
    (hop : r.op = .send) (h : exec i s = .next u) : (finish u).op = none ∧ (finish u).cmdbuf = none := by
  obtain ⟨-, -, hdriver, -, -, -, hbuf, -, hend⟩ := exec_frame i s u h
  rcases hend with hnone | hsome
  · rw [finish_idle u hnone]
    exact ⟨hnone, hbuf⟩
  · rw [hr, Option.map_some] at hsome
    rw [hd] at hdriver
    rw [finish_done u _ d hsome hdriver (by simp only [hop, microSteps, List.length_cons, List.length_nil]; omega)]
    exact ⟨rfl, rfl⟩

/-- A step of an operation that is no bare `send` at its start is of a list. -/
theorem Walking.not_send {s : State} {r : Running} {d : Driver} (h : Walking s r d) (hs : ¬ (r.op = .send ∧ r.seq = 0)) :
    r.op ≠ .send := fun hop => hs ⟨hop, (h.bare hop).1⟩

/-- The second part of the invariant is kept by every step. -/
theorem step_controlled (s t : State) (h : step s = .next t) (hc : Controlled s) : Controlled t := by
  have hwalk : ∀ r, s.op = some r → ∃ d, s.driver = some d ∧ Walking s r d := by
    intro r hr
    rcases hc with ⟨hnone, -⟩ | ⟨r', d, hr', hd, hw⟩
    · rw [hr] at hnone
      cases hnone
    · rw [hr] at hr'
      cases hr'
      exact ⟨d, hd, hw⟩
  rcases step_next_cases s t h with ⟨-, -, rfl⟩ | ⟨q, rest, hop, hq, -, hi⟩ | ⟨r, i, u, hr, hop, -, -, he, rfl⟩ |
    ⟨r, d, hr, hd, hs, -, ⟨-, rfl⟩ | ⟨m, hm, hmicro⟩⟩
  · exact hc
  · refine issue_controlled q.request { s with requests := rest } t ?_ (hc.buffer_of_request hop) (fun hself => ?_) hi
    · rcases hc with hidle | ⟨r, d, hr, hd, hw⟩
      · exact .inl hidle
      · exact .inr ⟨r, d, hr, hd, hw.bare, hw.position, hw.buffer, hw.suspended, hw.lent⟩
    · rcases hop with hnone | ⟨r, -, hleave⟩
      · exact hnone
      · rw [leavesSuspended_forAnother r s q rest hq hleave] at hself
        cases hself
  · obtain ⟨d, hd, -⟩ := hwalk r hr
    exact .inl (exec_send_ends s u r d i hr hd hop he)
  · exact .inl ⟨rfl, rfl⟩
  · obtain ⟨d', hd', hw⟩ := hwalk r hr
    rw [hd] at hd'
    cases hd'
    exact microStep_controlled s t r d m hr hd (hw.not_send hs) hw hm hmicro

/-- Settles O45: each part of the invariant is kept. -/
theorem invariantIsKeptByEveryStep : Obligations.InvariantIsKeptByEveryStep := by
  intro s t hinv h
  obtain ⟨hhoused, hctl⟩ := (inv_iff s).1 hinv
  exact (inv_iff t).2 ⟨step_housed s t h hhoused, step_controlled s t h hctl⟩

/-- Settles O46. -/
theorem invariantHoldsAfterNew : Obligations.InvariantHoldsAfterNew := by
  have hnew : ∀ (cfg : Config) (t dc : Handle) (r : Rotation), Inv (State.afterNew cfg t dc r) := by
    intro cfg t dc r
    have hnil : Housed [] := ⟨fun d hd => (by cases hd), List.nodup_nil, List.nodup_nil⟩
    exact (inv_iff _).2 ⟨hnil.cons Memory.zeroed_wf fun e he => (by cases he), .inl ⟨rfl, rfl⟩⟩
  refine ⟨hnew, hnew _ _ _ _, fun s d nbits w hinv hd => ?_⟩
  refine (inv_iff _).2 ⟨((inv_iff s).1 hinv).1, .inr ⟨_, d, rfl, hd, ?_⟩⟩
  exact ⟨fun _ => ⟨rfl, rfl, rfl⟩, fun h => absurd rfl h, fun h => absurd rfl h, fun h => (by cases h),
    fun _ _ h => (by cases h)⟩

/-- Settles O53: of the three ends of a micro-step two leave its operation in progress. -/
theorem seqCountsMicroStepsOneByOne : Obligations.SeqCountsMicroStepsOneByOne := by
  intro s t r r' hinv ho h hr hr'
  obtain ⟨d, hd⟩ := Option.isSome_iff_exists.1 (hinv.owned (by rw [hr]; rfl))
  rcases step_next_cases s t h with ⟨hnone, -, -⟩ | ⟨q, rest, hop, -, -, -⟩ | ⟨r₁, i, u, hr₁, hop, -, -, he, rfl⟩ |
    ⟨r₁, d₁, hr₁, hd₁, -, -, ⟨-, rfl⟩ | ⟨m, hm, hmicro⟩⟩
  · rw [hr] at hnone
    cases hnone
  · rcases hop with hnone | ⟨r₁, -, hleave⟩
    · rw [hr] at hnone
      cases hnone
    · rw [leavesSuspended_of r₁ s ho] at hleave
      cases hleave
  · rw [(exec_send_ends s u r₁ d i hr₁ hd hop he).1] at hr'
    cases hr'
  · cases hr'
  · rw [hr] at hr₁
    cases hr₁
    rcases microStep_progress r d₁ m s t hr hd₁ hm hmicro with ⟨hsus, rfl⟩ | ⟨hend, -⟩ | ⟨hop, -, -, htrace, -⟩
    · obtain ⟨hcoop, hseq, hp⟩ := suspendsBefore_at s.cfg d₁.rot r m hm hsus
      cases hr'
      exact ⟨rfl, .inr ⟨rfl, hcoop, hseq, hp, rfl⟩⟩
    · rw [hend] at hr'
      cases hr'
    · rw [hop] at hr'
      cases hr'
      exact ⟨rfl, .inl ⟨rfl, htrace⟩⟩

end Sys2Proof.Machine

/-! PROOFS. Stops (60_exceptions.md section 4), turning (10_state.md R24), and the block at rest (70_reset_and_hazards.md R177). -/

namespace Sys2Proof.Machine

/-! ## Where a step stops -/

theorem outcome_ne_refused (k : State → State) (x : Tried) (q : Refusal) : x.outcome k ≠ .refused q := by
  cases x <;> exact fun h => by cases h

theorem outcome_fault (k : State → State) (x : Tried) (f : Fault) (h : x.outcome k = .fault f) : x = .stuck f := by
  cases x <;> cases h
  rfl

theorem microStep_ne_refused (r : Running) (d : Driver) (m : MicroStep) (s : State) (q : Refusal) :
    microStep r d m s ≠ .refused q := by
  rw [microStep]
  split
  · exact fun h => by cases h
  · exact outcome_ne_refused finish _ q

theorem microStep_fault (r : Running) (d : Driver) (m : MicroStep) (s : State) (f : Fault)
    (h : microStep r d m s = .fault f) : performCall d m.call (prepare m s) = .stuck f := by
  rw [microStep] at h
  split at h
  · cases h
  · exact outcome_fault finish _ f h

theorem nextRequest_ne_fault (s : State) (f : Fault) : nextRequest s ≠ .fault f := by
  intro h
  rw [nextRequest] at h
  split at h
  · cases h
  · split at h
    · exact issue_ne_fault _ _ f h
    · cases h

theorem nextRequest_refused (s : State) (q : Refusal) (h : nextRequest s = .refused q) :
    ∃ i rest, s.requests = i :: rest ∧ ((i.request.wf s.cfg = false ∧ q = .illTypedRequest) ∨
      issue i.request { s with requests := rest } = .refused q) := by
  rw [nextRequest] at h
  split at h
  · cases h
  · rename_i i rest hq
    refine ⟨i, rest, hq, ?_⟩
    split at h
    · exact .inr h
    · rename_i hwf
      cases h
      exact .inl ⟨Bool.eq_false_iff.2 hwf, rfl⟩

/-- The two ways in which the next state of a bare `send` is missing. -/
theorem runCommand_refused (s : State) (q : Refusal) (h : runCommand s = .refused q) :
    (fetchCommand s = none ∧ q = .invalidEncoding) ∨ ∃ i, exec i s = .refused q := by
  rw [runCommand] at h
  split at h
  · rename_i hi
    cases h
    exact .inl ⟨hi, rfl⟩
  · rename_i i hi
    refine .inr ⟨i, ?_⟩
    cases he : exec i s <;> rw [he] at h <;> cases h
    rfl

theorem runCommand_fault (s : State) (f : Fault) (h : runCommand s = .fault f) : ∃ i, exec i s = .fault f := by
  rw [runCommand] at h
  split at h
  · cases h
  · rename_i i hi
    refine ⟨i, ?_⟩
    cases he : exec i s <;> rw [he] at h <;> cases h
    rfl

theorem walk_refused (r : Running) (s : State) (q : Refusal) (h : walk r s = .refused q) :
    s.driver = none ∧ q = .noDriver := by
  rw [walk] at h
  split at h
  · cases h
    exact ⟨‹_›, rfl⟩
  · split at h
    · cases h
    · exact absurd h (microStep_ne_refused _ _ _ _ q)

theorem walk_fault (r : Running) (s : State) (f : Fault) (h : walk r s = .fault f) :
    ∃ d m, s.driver = some d ∧ (microSteps s.cfg d.rot r.op)[r.seq]? = some m ∧
      performCall d m.call (prepare m s) = .stuck f := by
  rw [walk] at h
  split at h
  · cases h
  · rename_i d hd
    split at h
    · cases h
    · rename_i m hm
      exact ⟨d, m, hd, hm, microStep_fault r d m s f h⟩

/-- Everything a step with a fault can be: of a bare `send`, or of one call of a list. -/
theorem step_fault_cases (s : State) (f : Fault) (h : step s = .fault f) : ∃ r, s.op = some r ∧
    ((∃ i, exec i s = .fault f) ∨
      (¬ (r.op = .send ∧ r.seq = 0) ∧ ∃ d m, s.driver = some d ∧ (microSteps s.cfg d.rot r.op)[r.seq]? = some m ∧
        performCall d m.call (prepare m s) = .stuck f)) := by
  rw [step] at h
  split at h
  · rename_i r hr
    refine ⟨r, hr, ?_⟩
    rw [continueOperation] at h
    split at h
    · exact .inl (runCommand_fault s f h)
    · rename_i hs
      split at h
      · exact absurd h (nextRequest_ne_fault s f)
      · split at h
        · cases h
        · exact .inr ⟨hs, walk_fault r s f h⟩
  · exact absurd h (nextRequest_ne_fault s f)

/-- A Command that faults waits for one of two answers. -/
theorem exec_fault (i : Instr) (s : State) (f : Fault) (h : exec i s = .fault f) :
    f = .capabilityNeverAnswers ∧ (s.answers.head = none ∨ s.answers.tail.head = none) := by
  rw [Script.head_tail]
  rcases exec_trichotomy i s with ⟨-, he⟩ | ⟨-, hn, he⟩ | ⟨-, -, t, he⟩ <;> rw [he] at h <;> cases h
  exact ⟨rfl, hn.imp_right And.right⟩

/-- A call that is stuck waits for an answer or a delay, or has no Command to write. -/
theorem performCall_stuck (d : Driver) (c : Call) (s : State) (f : Fault) (h : performCall d c s = .stuck f) :
    (f = .capabilityNeverAnswers ∧ (s.answers.head = none ∨ s.delays.head = false)) ∨
      (c = .busCommand ∧ s.cmdbuf = none) := by
  rcases performCall_cases d c s with ⟨f', hf, ⟨hcap, hdelay, hans⟩ | ⟨-, hc, hbuf⟩⟩ | ⟨ev, -, -, -, hok⟩ |
    ⟨-, -, hok⟩ | ⟨ev, e, kind, -, -, -, -, hfail⟩
  · rw [h] at hf
    cases hf
    by_cases hc : c = .delay
    · exact .inl ⟨hcap, .inr (hdelay hc)⟩
    · exact .inl ⟨hcap, .inl (hans hc)⟩
  · exact .inr ⟨hc, hbuf⟩
  · rw [h] at hok; cases hok
  · rw [h] at hok; cases hok
  · rw [h] at hfail; cases hfail

/-- The write of a Command finds it in `CMDBUF`. -/
theorem Walking.buffer_isSome {s : State} {r : Running} {d : Driver} {m : MicroStep} (h : Walking s r d)
    (hop : r.op ≠ .send) (hm : (microSteps s.cfg d.rot r.op)[r.seq]? = some m) (hc : m.call = .busCommand) :
    (prepare m s).cmdbuf ≠ none := by
  have hload := load_isSome s.cfg d.rot r.op m r.seq hop hm
  rw [hc, decide_eq_false (by decide), Option.isSome_eq_false_iff, Option.isNone_iff_eq_none] at hload
  obtain ⟨i, -, hbuf⟩ := bufferBefore_busCommand s.cfg d.rot r.op r.seq hop
    (by rw [callsOf_at s.cfg d.rot r.op m r.seq hm, hc])
  rw [prepare_cmdbuf, hload, h.buffer hop, hbuf]
  exact Option.some_ne_none _

/-- Settles O47: a call that is made finds its Command in `CMDBUF`, so that only a missing answer can stop it. -/
theorem onlyTheEnvironmentCanHangTheBlock : Obligations.OnlyTheEnvironmentCanHangTheBlock := by
  intro s f hinv h
  obtain ⟨r, hr, hwhy⟩ := step_fault_cases s f h
  have hsome : s.op.isSome := by rw [hr]; rfl
  rcases hwhy with ⟨i, he⟩ | ⟨hs, d, m, hd, hm, hcall⟩
  · obtain ⟨hf, hans⟩ := exec_fault i s f he
    exact ⟨hf, hsome, by tauto⟩
  · have hwalk := hinv.walking r d hr hd
    rcases performCall_stuck d m.call _ f hcall with ⟨hf, hwait⟩ | ⟨hc, hbuf⟩
    · rw [prepare_answers, prepare_delays] at hwait
      exact ⟨hf, hsome, by tauto⟩
    · exact absurd hbuf (hwalk.buffer_isSome (hwalk.not_send hs) hm hc)

theorem exec_refused (i : Instr) (s : State) (q : Refusal) (h : exec i s = .refused q) :
    s.driver = none ∧ q = .noDriver := by
  rcases exec_trichotomy i s with ⟨hd, he⟩ | ⟨-, -, he⟩ | ⟨-, -, t, he⟩ <;> rw [he] at h <;> cases h
  exact ⟨hd, rfl⟩

/-- Everything a refused step can be: a request, a bare `send`, a caller that cuts in, or a list without its driver. -/
theorem step_refused_cases (s : State) (q : Refusal) (h : step s = .refused q) :
    ((s.op = none ∨ ∃ r, s.op = some r ∧ leavesSuspended r s = true) ∧ nextRequest s = .refused q) ∨
    (∃ r, s.op = some r ∧ r.op = .send ∧ runCommand s = .refused q) ∨
    (q = .overlappingRequest ∧ s.op.isSome ∧ overlapping s = true) ∨
    (q = .noDriver ∧ s.driver = none) := by
  rw [step] at h
  split at h
  · rename_i r hr
    rw [continueOperation] at h
    split at h
    · rename_i hs
      exact .inr (.inl ⟨r, hr, hs.1, h⟩)
    · split at h
      · exact .inl ⟨.inr ⟨r, hr, ‹_›⟩, h⟩
      · split at h
        · cases h
          exact .inr (.inr (.inl ⟨rfl, by rw [hr]; rfl, ‹_›⟩))
        · exact .inr (.inr (.inr (walk_refused r s q h).symm))
  · exact .inl ⟨.inl ‹_›, h⟩

theorem Request.wf_of_forAnother (cfg : Config) (q : Request) (h : forAnother q = true) : q.wf cfg = true := by
  cases q with
  | setPixel x y c => cases h
  | _ => rfl

/-- Settles O48. -/
theorem everyRefusalHasItsCause : Obligations.EveryRefusalHasItsCause := by
  intro s q h
  rcases step_refused_cases s q h with ⟨hop, hnext⟩ | ⟨r, hr, hsend, hrun⟩ | ⟨rfl, hsome, ho⟩ | ⟨rfl, hd⟩
  · obtain ⟨i, rest, hq, ⟨hwf, rfl⟩ | hissue⟩ := nextRequest_refused s q hnext
    · refine .inr (.inr (.inr (.inl ⟨rfl, ?_, i, by rw [hq]; rfl, hwf⟩)))
      rcases hop with hnone | ⟨r, -, hleave⟩
      · exact hnone
      · rw [i.request.wf_of_forAnother s.cfg (leavesSuspended_forAnother r s i rest hq hleave)] at hwf
        cases hwf
    · have hhead : s.requests.head? = some i := by rw [hq]; rfl
      rcases issue_refused_cases i.request { s with requests := rest } q hissue with
        ⟨hf, hd | ⟨a, ha, hno⟩⟩ | ⟨hf, ⟨a, b, r, ha, hheld⟩ | ⟨line, delay, ha, hd, hheld⟩⟩
      · exact .inl ⟨hf, .inl hd⟩
      · exact .inl ⟨hf, .inr ⟨i, a, hhead, ha, hno⟩⟩
      · exact .inr (.inl ⟨hf, i, hhead, .inl ⟨a, b, r, ha, hheld⟩⟩)
      · exact .inr (.inl ⟨hf, i, hhead, .inr ⟨line, delay, ha, hd, hheld⟩⟩)
  · rcases runCommand_refused s q hrun with ⟨hfetch, hf⟩ | ⟨i, he⟩
    · exact .inr (.inr (.inr (.inr ⟨hf, ⟨r, hr, hsend⟩, hfetch⟩)))
    · obtain ⟨hd, hf⟩ := exec_refused i s q he
      exact .inl ⟨hf, .inl hd⟩
  · refine .inr (.inr (.inl ⟨rfl, hsome, ?_⟩))
    cases hq : s.requests with
    | nil => rw [overlapping, hq] at ho; cases ho
    | cons i rest => exact ⟨i, rfl, by simpa [overlapping, hq] using ho⟩
  · exact .inl ⟨rfl, .inl hd⟩

/-- Settles O56: the request is neither waited with nor one that leaves a suspended operation. -/
theorem overlappingRequestIsRefused : Obligations.OverlappingRequestIsRefused := by
  intro s r h rest hr hop hq hwaits hstay
  have hleave : leavesSuspended r s = false := by
    rw [← Bool.not_eq_true, leavesSuspended_iff r s h rest hq]
    rintro ⟨hp, -, hother⟩
    rcases hstay with hp' | hother' <;> simp_all
  have ho : overlapping s = true := by simp only [overlapping, hq, hwaits, Bool.not_false]
  simp [step, hr, continueOperation, hop, hleave, ho]

/-! ## The block at rest -/

theorem step_rest (s : State) (hop : s.op = none) (hq : s.requests = []) : step s = .next s := by
  simp only [step, hop, nextRequest, hq]

/-- An idle block that is asked nothing stays as it is, however long. -/
theorem run_rest (s : State) (n : Nat) (hop : s.op = none) (hq : s.requests = []) : run n s = .next s := by
  induction n with
  | zero => exact run_zero s
  | succ n ih => rw [run_succ n s s (step_rest s hop hq), ih]

/-- Settles O57. -/
theorem idleBlockDoesNothing : Obligations.IdleBlockDoesNothing := run_rest

/-! ## Turning away and back -/

/-- A request to turn is taken up between operations and, from a caller that does not wait, during the suspension too. -/
theorem step_turns (s : State) (a : Handle) (rest : List HostInput) (hop : s.op = none ∨ s.op = some suspendedFlush)
    (hq : s.requests = { request := .turnTo a, waits := false } :: rest) :
    step s = opTurnTo a { s with requests := rest } := by
  rcases hop with hop | hop
  · exact step_issues s _ false rest hop hq rfl
  · have hleave : leavesSuspended suspendedFlush s = true := by
      rw [leavesSuspended_iff _ s _ rest hq]
      exact ⟨rfl, rfl, rfl⟩
    have hns : ¬ (suspendedFlush.op = .send ∧ suspendedFlush.seq = 0) := by decide
    simp only [step, hop, continueOperation, if_neg hns, hleave, if_true, nextRequest, hq]
    rfl

/-- Turning to a living driver that holds its transport alone finds it. -/
theorem step_turns_to (s : State) (i : Instance) (rest : List HostInput)
    (hop : s.op = none ∨ s.op = some suspendedFlush)
    (hq : s.requests = { request := .turnTo i.driver.bus, waits := false } :: rest)
    (hn : (s.instances.map Driver.bus).Nodup) (hi : i ∈ (setAside s).others) :
    step s = .next (takeUp i (setAside { s with requests := rest })) := by
  have hfind : (setAside { s with requests := rest }).others.find? (Instance.holds i.driver.bus) = some i := by
    rw [setAside_others_requests]
    refine find_by_transport _ i ?_ hi
    rwa [← setAside_others_drivers, List.map_map] at hn
  rw [step_turns s _ rest hop hq, opTurnTo, hfind]

theorem takeUp_idle_or_suspended (i : Instance) (s : State) :
    (takeUp i s).op = none ∨ (takeUp i s).op = some suspendedFlush := by
  rw [takeUp_op]
  cases i.suspended
  · exact .inl rfl
  · exact .inr rfl

/-- A driver that is taken up and set aside again stands first, as it was. -/
theorem setAside_takeUp_others (i : Instance) (s : State) :
    (setAside (takeUp i s)).others = i :: s.others.eraseP (Instance.holds i.driver.bus) := by
  rw [setAside_some _ i.driver rfl, takeUp_op_isSome]
  rfl

theorem State.eq_of_fields {s t : State} (hcfg : s.cfg = t.cfg) (hdriver : s.driver = t.driver)
    (hothers : s.others = t.others) (hop : s.op = t.op) (hbuf : s.cmdbuf = t.cmdbuf) (hreq : s.requests = t.requests)
    (hans : s.answers = t.answers) (hdel : s.delays = t.delays) (htrace : s.trace = t.trace)
    (hreply : s.reply = t.reply) : s = t := by
  cases s
  cases t
  simp_all

/-- Turning from a driver to another and back: all is as it was but the script and the order of the others. -/
theorem takeUp_back (s : State) (d : Driver) (i : Instance) (rest rest' : List HostInput) (hd : s.driver = some d)
    (hop : s.op = none ∨ s.op = some suspendedFlush) :
    let u := takeUp i (setAside { s with requests := rest })
    takeUp (Instance.mk d s.op.isSome s.trace) (setAside { u with requests := rest' }) = { s with
      others := (setAside u).others.eraseP (Instance.holds d.bus)
      requests := rest' } := by
  intro u
  have hop' : (if s.op.isSome then some suspendedFlush else none) = s.op := by
    rcases hop with h | h <;> rw [h] <;> rfl
  have hothers : (setAside { u with requests := rest' }).others = (setAside u).others := setAside_others_requests u rest'
  refine State.eq_of_fields ?_ hd.symm (congrArg (List.eraseP _) hothers) hop' ?_ ?_ ?_ ?_ rfl ?_ <;> simp [u]

/-- Settles O41: each of the two turns finds its driver, and the second takes up what the first set aside. -/
theorem turningAwayAndBackChangesNothing : Obligations.TurningAwayAndBackChangesNothing := by
  intro s d i rest hinv hd hi hop hq
  have hfirst := step_turns_to s i _ hop hq hinv.transports (others_setAside s i hi)
  refine ⟨⟨_, hfirst, rfl, rfl, takeUp_op_isSome i _⟩, ?_⟩
  let u := takeUp i (setAside { s with requests := { request := .turnTo d.bus, waits := false } :: rest })
  let j := Instance.mk d s.op.isSome s.trace
  have hnodup : ((setAside s).others.map fun k => k.driver.bus).Nodup := by
    have h := hinv.transports
    rwa [← setAside_others_drivers, List.map_map] at h
  have hfound : (setAside s).others.find? (Instance.holds i.driver.bus) = some i :=
    find_by_transport _ i hnodup (others_setAside s i hi)
  have hothers : (setAside u).others = i :: (setAside s).others.eraseP (Instance.holds i.driver.bus) := by
    rw [setAside_takeUp_others, setAside_others_requests]
  have hperm : (setAside u).others.Perm (setAside s).others := by
    rw [hothers]
    exact find_cons_eraseP_perm _ _ i hfound
  have hnodup' : ((setAside u).others.map fun k => k.driver.bus).Nodup := (hperm.map _).nodup_iff.2 hnodup
  have hj : j ∈ (setAside u).others := hperm.mem_iff.2 (addressed_mem_setAside s d hd)
  have hsecond : step u = .next (takeUp j (setAside { u with requests := rest })) := by
    refine step_turns_to u j rest (takeUp_idle_or_suspended i _) ?_ ?_ hj
    · simp [u, j]
    · rwa [← setAside_others_drivers, List.map_map]
  have hback : (j :: (setAside u).others.eraseP (Instance.holds d.bus)).Perm (setAside u).others :=
    find_cons_eraseP_perm _ _ j (find_by_transport _ j hnodup' hj)
  refine ⟨_, ?_, List.Perm.cons_inv (a := j) ((hback.trans hperm).trans ?_)⟩
  · rw [run_succ 1 s u hfirst, run_succ 0 u _ hsecond, run_zero, takeUp_back s d i _ rest hd hop]
  · rw [setAside_some s d hd]

end Sys2Proof.Machine

/-! PROOFS. The walk through a list of micro-steps (43_init_sequencer.md R132): where each call stands and what it leaves. -/

namespace Sys2Proof.Machine

/-! ## The trace of a list -/

/-- The event of a call that answers `ok`, the Command in `CMDBUF` being the one loaded before. -/
def callEvent (cfg : Config) (fb : Memory) (loaded : Option Instr) : Call → Event
  | .dcCommand => .dcSet cfg.dcCommandLevel .ok
  | .busCommand => .busWrite ((loaded.map (encode cfg)).getD []) .ok
  | .dcData => .dcSet cfg.dcDataLevel .ok
  | .busData => .busWrite fb.bytes .ok
  | .rstSet l => .rstSet l .ok
  | .delay => .delayMs cfg.resetDelayMs

/-- The events of a list, each Command written by the micro-step after the one that loads it. -/
def listTrace (cfg : Config) (fb : Memory) : Option Instr → List MicroStep → List Event
  | _, [] => []
  | loaded, m :: ms => callEvent cfg fb loaded m.call :: listTrace cfg fb m.load ms

theorem operationTrace_eq (cfg : Config) (d : Driver) (op : Operation) (h : op ≠ .send) :
    operationTrace cfg d op = listTrace cfg d.fb none (microSteps cfg d.rot op) := by
  cases op with
  | send => exact absurd rfl h
  | _ => rfl

theorem listTrace_getElem? (cfg : Config) (fb : Memory) (loaded : Option Instr) (ms : List MicroStep) (k : Nat) :
    (listTrace cfg fb loaded ms)[k]? = (ms[k]?).map fun m =>
      callEvent cfg fb (if k = 0 then loaded else (ms[k - 1]?).bind MicroStep.load) m.call := by
  induction ms generalizing loaded k with
  | nil => rfl
  | cons m ms ih =>
    match k with
    | 0 => rfl
    | 1 => exact ih m.load 0
    | k + 2 => exact ih m.load (k + 1)

theorem listTrace_length (cfg : Config) (fb : Memory) (loaded : Option Instr) (ms : List MicroStep) :
    (listTrace cfg fb loaded ms).length = ms.length := by
  induction ms generalizing loaded with
  | nil => rfl
  | cons m ms ih => rw [listTrace, List.length_cons, ih, List.length_cons]

theorem operationTrace_length (cfg : Config) (d : Driver) (op : Operation) (h : op ≠ .send) :
    (operationTrace cfg d op).length = (microSteps cfg d.rot op).length := by
  rw [operationTrace_eq cfg d op h, listTrace_length]

/-- Event number `k` of an operation is that of the call of micro-step `k`. -/
theorem operationTrace_getElem? (cfg : Config) (d : Driver) (op : Operation) (m : MicroStep) (k : Nat) (h : op ≠ .send)
    (hm : (microSteps cfg d.rot op)[k]? = some m) : (operationTrace cfg d op)[k]? = some (callEvent cfg d.fb
      (if k = 0 then none else ((microSteps cfg d.rot op)[k - 1]?).bind MicroStep.load) m.call) := by
  rw [operationTrace_eq cfg d op h, listTrace_getElem?, hm, Option.map_some]

theorem callEvent_answered (cfg : Config) (fb : Memory) (loaded : Option Instr) (c : Call) :
    (callEvent cfg fb loaded c).answered = decide (c ≠ .delay) := by
  cases c <;> rfl

theorem take_succ_of_getElem? {α : Type} (l : List α) (k : Nat) (a : α) (h : l[k]? = some a) :
    l.take (k + 1) = l.take k ++ [a] := by
  rw [List.take_add_one, h, Option.toList_some]

theorem answersIn_append (t u : List Event) : answersIn (t ++ u) = answersIn t + answersIn u := List.countP_append

theorem delaysIn_append (t u : List Event) : delaysIn (t ++ u) = delaysIn t + delaysIn u := List.countP_append

/-! ## ROT during the walk (41_rotation_geometry.md R101, R104) -/

/-- `ROT` at micro-step `k` of an operation. -/
def rotationAt (op : Operation) (rot : Rotation) (k : Nat) : Rotation := if k = 0 then rot else rotationAfter op rot

theorem rotationAfter_eq (op : Operation) (rot : Rotation) (h : ∀ r, op ≠ .setRotation r) : rotationAfter op rot = rot := by
  cases op with
  | setRotation r => exact absurd rfl (h r)
  | _ => rfl

/-- The store of a micro-step is what takes `ROT` to its value after the operation. -/
theorem store_rotationAt (cfg : Config) (rot : Rotation) (op : Operation) (m : MicroStep) (k : Nat)
    (hm : (microSteps cfg rot op)[k]? = some m) : m.store.getD (rotationAt op rot k) = rotationAt op rot (k + 1) := by
  rw [rotationAt, rotationAt, if_neg (Nat.succ_ne_zero k)]
  by_cases hset : ∃ r, op = .setRotation r
  · obtain ⟨r, rfl⟩ := hset
    match k with
    | 0 => cases hm; rfl
    | 1 => cases hm; rfl
  · rw [rotationAfter_eq op rot fun r h => hset ⟨r, h⟩, ite_self]
    cases hs : m.store with
    | none => rfl
    | some r =>
      rcases store_only cfg rot r op m k hm hs with h | ⟨-, h⟩
      · exact absurd ⟨r, h⟩ hset
      · exact h

theorem microSteps_rotationAt (cfg : Config) (rot : Rotation) (op : Operation) (k : Nat) :
    microSteps cfg (rotationAt op rot k) op = microSteps cfg rot op := by
  by_cases h : op = .init
  · subst h
    rw [rotationAt, rotationAfter, ite_self]
  · exact microSteps_rot _ _ _ _ h

/-! ## The state at a call -/

/-- The state of an operation that started in `s` and has made its first `k` calls, all of them answered. -/
def State.walked (s : State) (d : Driver) (op : Operation) (k : Nat) (pending : Bool) (b : Option CmdBuf) : State :=
  { s with
    driver := some { d with rot := rotationAt op d.rot k }
    op := some { op := op, seq := k, pending := pending }
    cmdbuf := b
    answers := s.answers.skip (answersIn ((operationTrace s.cfg d op).take k))
    delays := s.delays.skip (delaysIn ((operationTrace s.cfg d op).take k))
    trace := s.trace ++ (operationTrace s.cfg d op).take k }

/-- What `CMDBUF` must hold at a call: its Command, if the call is its write. -/
def Loaded (s : State) (d : Driver) (op : Operation) (k : Nat) (b : Option CmdBuf) : Prop :=
  (callsOf op)[k]? = some .busCommand → b = bufferBefore s.cfg (microSteps s.cfg d.rot op) k

/-- The operation `op` is about to make call `k`, that of micro-step `m`, whose event is `ev` if it answers `ok`. -/
structure AtCall (s : State) (d : Driver) (op : Operation) (k : Nat) (m : MicroStep) (ev : Event) (pending : Bool)
    (b : Option CmdBuf) : Prop where
  listed : op ≠ .send
  micro : (microSteps s.cfg d.rot op)[k]? = some m
  event : (operationTrace s.cfg d op)[k]? = some ev
  loaded : Loaded s d op k b
  exclusive : overlapping s = false
  issued : suspendsBefore { op := op, seq := k, pending := pending } m = false

section AtCall

variable {s : State} {d : Driver} {op : Operation} {k : Nat} {m : MicroStep} {ev : Event} {p : Bool} {b : Option CmdBuf}

theorem walked_micro (hm : (microSteps s.cfg d.rot op)[k]? = some m) :
    (microSteps (s.walked d op k p b).cfg (rotationAt op d.rot k) op)[k]? = some m := by
  rw [microSteps_rotationAt]
  exact hm

theorem AtCall.step_eq (h : AtCall s d op k m ev p b) : step (s.walked d op k p b) =
    (performCall { d with rot := rotationAt op d.rot k } m.call (prepare m (s.walked d op k p b))).outcome finish := by
  rw [step_walks (s.walked d op k p b) { op := op, seq := k, pending := p } { d with rot := rotationAt op d.rot k } m rfl
    (fun hs => h.listed hs.1) h.exclusive rfl (walked_micro h.micro), microStep_call _ _ _ _ h.issued]

theorem AtCall.event_eq (h : AtCall s d op k m ev p b) : ev = callEvent s.cfg d.fb
    (if k = 0 then none else ((microSteps s.cfg d.rot op)[k - 1]?).bind MicroStep.load) m.call := by
  have hev := h.event
  rw [operationTrace_getElem? s.cfg d op m k h.listed h.micro] at hev
  exact (Option.some.inj hev).symm

theorem AtCall.answered_iff (h : AtCall s d op k m ev p b) : ev.answered = decide (m.call ≠ .delay) := by
  rw [h.event_eq, callEvent_answered]

/-- `CMDBUF` at the call: the Command just loaded, or what it held. -/
theorem AtCall.prepared (h : AtCall s d op k m ev p b) (hc : m.call = .busCommand) :
    ∃ i, (if k = 0 then none else ((microSteps s.cfg d.rot op)[k - 1]?).bind MicroStep.load) = some i ∧
      (prepare m (s.walked d op k p b)).cmdbuf = some (CmdBuf.ofWire s.cfg.cmdArraySize (encode s.cfg i)) := by
  have hat : (callsOf op)[k]? = some .busCommand := by rw [callsOf_at s.cfg d.rot op m k h.micro, hc]
  obtain ⟨i, hi, hbuf⟩ := bufferBefore_busCommand s.cfg d.rot op k h.listed hat
  have hload := load_isSome s.cfg d.rot op m k h.listed h.micro
  rw [hc, decide_eq_false (by decide), Option.isSome_eq_false_iff, Option.isNone_iff_eq_none] at hload
  have hk : k ≠ 0 := fun hk => (calls_shape op 0).2.1 (hk ▸ hat)
  refine ⟨i, by rw [if_neg hk, hi], ?_⟩
  rw [prepare_cmdbuf, hload]
  exact (h.loaded hat).trans hbuf

/-- The call that is made is the one of the trace. -/
theorem AtCall.called (h : AtCall s d op k m ev p b) (evf : Answer → Event)
    (hcalled : calledWith m.call evf (prepare m (s.walked d op k p b)) { d with rot := rotationAt op d.rot k }) :
    evf .ok = ev := by
  rw [h.event_eq]
  cases hc : m.call <;> rw [hc] at hcalled
  case busCommand =>
    obtain ⟨i, hi, hbuf⟩ := h.prepared hc
    obtain ⟨b', hb', rfl⟩ := hcalled
    rw [hbuf] at hb'
    cases hb'
    rw [hi, CmdBuf.wire_ofWire]
    rfl
  case dcCommand => rw [calledWith, prepare_cfg] at hcalled; rw [hcalled]; rfl
  case dcData => rw [calledWith, prepare_cfg] at hcalled; rw [hcalled]; rfl
  case busData => rw [calledWith] at hcalled; rw [hcalled]; rfl
  case rstSet l => rw [calledWith] at hcalled; rw [hcalled]; rfl
  case delay => rw [calledWith, prepare_cfg] at hcalled; rw [hcalled]; rfl

end AtCall

end Sys2Proof.Machine

/-! PROOFS. The three answers of a call inside an operation, and how far a run of answered calls gets. -/

namespace Sys2Proof.Machine

section Answers

variable {s : State} {d : Driver} {op : Operation} {k : Nat} {m : MicroStep} {ev : Event} {p : Bool} {b : Option CmdBuf}

/-- The next answer is the one after those of the calls made. -/
theorem walked_answer (s : State) (d : Driver) (op : Operation) (k : Nat) (m : MicroStep) (p : Bool) (b : Option CmdBuf) :
    (prepare m (s.walked d op k p b)).answers.head = s.answers.get (answersIn ((operationTrace s.cfg d op).take k)) := by
  rw [prepare_answers]
  exact Script.head_skip _ _

theorem walked_delay (s : State) (d : Driver) (op : Operation) (k : Nat) (m : MicroStep) (p : Bool) (b : Option CmdBuf) :
    (prepare m (s.walked d op k p b)).delays.head = s.delays.get (delaysIn ((operationTrace s.cfg d op).take k)) := by
  rw [prepare_delays]
  exact Script.head_skip _ _

/-- What the environment gives call `k` lets it answer `ok`. -/
def CallReturns (s : State) (d : Driver) (op : Operation) (k : Nat) (ev : Event) : Prop :=
  if ev.answered then s.answers.get (answersIn ((operationTrace s.cfg d op).take k)) = some .ok
  else s.delays.get (delaysIn ((operationTrace s.cfg d op).take k)) = true

theorem prepare_walked_driver (hm : (microSteps s.cfg d.rot op)[k]? = some m) :
    (prepare m (s.walked d op k p b)).driver = some { d with rot := rotationAt op d.rot (k + 1) } := by
  rw [prepare_driver m _ _ rfl, ← store_rotationAt s.cfg d.rot op m k hm]

/-- The buffer that a call leaves is right for the next call. -/
theorem AtCall.loaded_succ (h : AtCall s d op k m ev p b) : Loaded s d op (k + 1)
    (if m.call = .busCommand then none else (prepare m (s.walked d op k p b)).cmdbuf) := by
  intro hnext
  have hat := callsOf_at s.cfg d.rot op m k h.micro
  have hc : m.call = .dcCommand := by
    have hline := (calls_shape op k).1.1 hnext
    rw [hat] at hline
    exact Option.some.inj hline
  have hload := load_isSome s.cfg d.rot op m k h.listed h.micro
  rw [decide_eq_true hc] at hload
  obtain ⟨i, hi⟩ := Option.isSome_iff_exists.1 hload
  rw [if_neg (by rw [hc]; decide), bufferBefore_succ s.cfg d.rot op m k h.listed h.micro, prepare_cmdbuf, hi]
  rfl

/-- The state in which call `k` has ended the operation with a failure (60_exceptions.md R142). -/
def State.failedAt (s : State) (d : Driver) (op : Operation) (k : Nat) (ev : Event) (e : ErrorValue) (f : Failure) :
    State :=
  { s with
    driver := some { d with rot := rotationAfter op d.rot }
    op := none
    cmdbuf := none
    answers := s.answers.skip (answersIn ((operationTrace s.cfg d op).take k) + 1)
    delays := s.delays.skip (delaysIn ((operationTrace s.cfg d op).take k))
    trace := s.trace ++ (operationTrace s.cfg d op).take k ++ [ev.failing e]
    reply := some (.failure f) }

theorem answersIn_singleton (ev : Event) : answersIn [ev] = if ev.answered then 1 else 0 := List.countP_singleton

theorem delaysIn_singleton (ev : Event) : delaysIn [ev] = if ev.answered then 0 else 1 := by
  rw [delaysIn, List.countP_singleton]
  cases ev.answered <;> rfl

theorem calledWith_failing (c : Call) (evf : Answer → Event) (s : State) (d : Driver) (e : ErrorValue)
    (hc : c ≠ .delay) (h : calledWith c evf s d) : (evf .ok).failing e = evf (.error e) := by
  cases c with
  | delay => exact absurd rfl hc
  | busCommand => obtain ⟨b, -, rfl⟩ := h; rfl
  | _ => cases h; rfl

/-- After a call with an answer, `ok`, the operation stands at the next one. -/
theorem AtCall.advance_answered (h : AtCall s d op k m ev p b) (ha : ev.answered = true) (b' : Option CmdBuf) :
    advance { prepare m (s.walked d op k p b) with
      trace := (prepare m (s.walked d op k p b)).trace ++ [ev]
      answers := (prepare m (s.walked d op k p b)).answers.tail
      cmdbuf := b' } = s.walked d op (k + 1) p b' := by
  refine State.eq_of_fields ?_ (prepare_walked_driver h.micro) ?_ ?_ ?_ ?_ ?_ ?_ ?_ ?_ <;>
    simp [State.walked, take_succ_of_getElem? _ k ev h.event, answersIn_append, delaysIn_append, answersIn_singleton,
      delaysIn_singleton, ha]

/-- After a delay that returns the operation stands at the next call. -/
theorem AtCall.advance_delayed (h : AtCall s d op k m ev p b) (ha : ev.answered = false) (b' : Option CmdBuf) :
    advance { prepare m (s.walked d op k p b) with
      trace := (prepare m (s.walked d op k p b)).trace ++ [ev]
      delays := (prepare m (s.walked d op k p b)).delays.tail
      cmdbuf := b' } = s.walked d op (k + 1) p b' := by
  refine State.eq_of_fields ?_ (prepare_walked_driver h.micro) ?_ ?_ ?_ ?_ ?_ ?_ ?_ ?_ <;>
    simp [State.walked, take_succ_of_getElem? _ k ev h.event, answersIn_append, delaysIn_append, answersIn_singleton,
      delaysIn_singleton, ha]

/-- What a failing call leaves. -/
theorem AtCall.failed_eq (h : AtCall s d op k m ev p b) (e : ErrorValue) (f : Failure) :
    { prepare m (s.walked d op k p b) with
      trace := (prepare m (s.walked d op k p b)).trace ++ [ev.failing e]
      answers := (prepare m (s.walked d op k p b)).answers.tail
      cmdbuf := none
      op := none
      reply := some (.failure f) } = s.failedAt d op k ev e f := by
  refine State.eq_of_fields ?_ (prepare_walked_driver h.micro) ?_ rfl rfl ?_ ?_ ?_ ?_ rfl <;>
    simp [State.walked, State.failedAt]

/-- A call that the environment lets return is not stuck for want of its answer. -/
theorem AtCall.not_returns (h : AtCall s d op k m ev p b)
    (hdelay : m.call = .delay → s.delays.get (delaysIn ((operationTrace s.cfg d op).take k)) = false)
    (hnone : m.call ≠ .delay → s.answers.get (answersIn ((operationTrace s.cfg d op).take k)) = none) :
    ¬ CallReturns s d op k ev := by
  rw [CallReturns, h.answered_iff]
  by_cases hc : m.call = .delay
  · simp [hc, hdelay hc]
  · simp [hc, hnone hc]

/-- The three things that can become of a call: it never answers, it answers `ok`, it answers `error`. -/
theorem AtCall.step_cases (h : AtCall s d op k m ev p b) :
    (¬ CallReturns s d op k ev ∧
      (ev.answered = true → s.answers.get (answersIn ((operationTrace s.cfg d op).take k)) = none) ∧
      step (s.walked d op k p b) = .fault .capabilityNeverAnswers) ∨
    (CallReturns s d op k ev ∧
      ∃ b', Loaded s d op (k + 1) b' ∧ step (s.walked d op k p b) = .next (finish (s.walked d op (k + 1) p b'))) ∨
    (ev.answered = true ∧ ∃ e f, s.answers.get (answersIn ((operationTrace s.cfg d op).take k)) = some (.error e) ∧
      ev.failureKind e = some f ∧ step (s.walked d op k p b) = .next (s.failedAt d op k ev e f)) := by
  have hans := h.answered_iff
  rw [h.step_eq]
  rcases performCall_cases { d with rot := rotationAt op d.rot k } m.call (prepare m (s.walked d op k p b)) with
    ⟨f, hp, ⟨rfl, hdelay, hnone⟩ | ⟨-, hc, hbuf⟩⟩ | ⟨evf, hcalled, hc, hhead, hp⟩ | ⟨hc, hhead, hp⟩ |
    ⟨evf, e, f, hcalled, hc, hhead, hf, hp⟩
  · rw [walked_answer] at hnone
    rw [walked_delay] at hdelay
    exact .inl ⟨h.not_returns hdelay hnone, fun ha => hnone (by simpa [ha] using hans), by rw [hp]; rfl⟩
  · obtain ⟨i, -, hsome⟩ := h.prepared hc
    rw [hbuf] at hsome
    cases hsome
  · have ha : ev.answered = true := by simpa [hc] using hans
    rw [walked_answer] at hhead
    refine .inr (.inl ⟨by rw [CallReturns, if_pos ha, hhead], _, h.loaded_succ, ?_⟩)
    rw [hp, h.called evf hcalled, h.advance_answered ha]
    rfl
  · have ha : ev.answered = false := by simpa [hc] using hans
    have hev : ev = .delayMs (prepare m (s.walked d op k p b)).cfg.resetDelayMs := by
      rw [h.event_eq, hc, prepare_cfg]
      rfl
    have hb : (prepare m (s.walked d op k p b)).cmdbuf =
        if m.call = .busCommand then none else (prepare m (s.walked d op k p b)).cmdbuf := by
      rw [if_neg (by rw [hc]; decide)]
    rw [walked_delay] at hhead
    refine .inr (.inl ⟨by rw [CallReturns, ha]; exact hhead, _, h.loaded_succ, ?_⟩)
    rw [hp, ← hev, ← hb, h.advance_delayed ha]
    rfl
  · have ha : ev.answered = true := by simpa [hc] using hans
    have hev := h.called evf hcalled
    have hfail := calledWith_failing _ _ _ _ e hc hcalled
    rw [walked_answer] at hhead
    rw [hev] at hf hfail
    refine .inr (.inr ⟨ha, e, f, hhead, hf, ?_⟩)
    rw [hp, ← hfail, h.failed_eq e f]
    rfl

end Answers

end Sys2Proof.Machine

/-! PROOFS. An operation from its start: all its calls answered, one of them failing, and the suspension of a cooperative
`flush` (43_init_sequencer.md R132, 60_exceptions.md section 3, 42_framebuffer.md R116). -/

namespace Sys2Proof.Machine

/-! ## How far answered calls take a run -/

theorem run_one (s : State) : run 1 s = step s := by
  rw [run_step]
  cases step s <;> rfl

/-- The last step of a run whose steps before had a next state. -/
theorem run_succ_last (n : Nat) (s t : State) (h : run n s = .next t) : run (n + 1) s = step t := by
  rw [run_add n 1 s t h, run_one]

theorem okFor_mono (s : State) (n n' : Nat) (h : s.okFor n) (hle : n' ≤ n) : s.okFor n' :=
  fun k hk => h k (Nat.lt_of_lt_of_le hk hle)

theorem returnsFor_mono (s : State) (n n' : Nat) (h : s.returnsFor n) (hle : n' ≤ n) : s.returnsFor n' :=
  fun k hk => h k (Nat.lt_of_lt_of_le hk hle)

/-- The environment lets the first `k` calls of an operation answer. -/
structure Answered (s : State) (d : Driver) (op : Operation) (k : Nat) : Prop where
  answers : s.okFor (answersIn ((operationTrace s.cfg d op).take k))
  delays : s.returnsFor (delaysIn ((operationTrace s.cfg d op).take k))

theorem Answered.before {s : State} {d : Driver} {op : Operation} {k : Nat} {ev : Event} (h : Answered s d op (k + 1))
    (hev : (operationTrace s.cfg d op)[k]? = some ev) : Answered s d op k ∧ CallReturns s d op k ev := by
  obtain ⟨hans, hdel⟩ := h
  rw [take_succ_of_getElem? _ k ev hev, answersIn_append, answersIn_singleton] at hans
  rw [take_succ_of_getElem? _ k ev hev, delaysIn_append, delaysIn_singleton] at hdel
  refine ⟨⟨okFor_mono _ _ _ hans (Nat.le_add_right _ _), returnsFor_mono _ _ _ hdel (Nat.le_add_right _ _)⟩, ?_⟩
  rw [CallReturns]
  split
  next ha =>
    rw [if_pos ha] at hans
    exact hans _ (Nat.lt_succ_self _)
  next ha =>
    rw [if_neg ha] at hdel
    exact hdel _ (Nat.lt_succ_self _)

/-- A call whose answer is there is neither stuck nor failing. -/
theorem AtCall.step_returns {s : State} {d : Driver} {op : Operation} {k : Nat} {m : MicroStep} {ev : Event} {p : Bool}
    {b : Option CmdBuf} (h : AtCall s d op k m ev p b) (hret : CallReturns s d op k ev) :
    ∃ b', Loaded s d op (k + 1) b' ∧ step (s.walked d op k p b) = .next (finish (s.walked d op (k + 1) p b')) := by
  rcases h.step_cases with ⟨hnot, -, -⟩ | ⟨-, hnext⟩ | ⟨ha, e, f, he, -, -⟩
  · exact absurd hret hnot
  · exact hnext
  · rw [CallReturns, if_pos ha, he] at hret
    cases hret

theorem walked_zero (s : State) (d : Driver) (op : Operation) (h : Starting s d op) :
    s.walked d op 0 false s.cmdbuf = s := by
  refine State.eq_of_fields rfl h.driver.symm rfl h.op.symm rfl rfl ?_ ?_ ?_ rfl <;>
    simp [State.walked, answersIn, delaysIn]

/-- Before the end of its list an operation goes on; at the end it returns `ok`. -/
theorem finish_walked (s : State) (d : Driver) (op : Operation) (k : Nat) (p : Bool) (b : Option CmdBuf) :
    finish (s.walked d op k p b) = if (microSteps s.cfg d.rot op).length ≤ k then endOperation .ok (s.walked d op k p b)
      else s.walked d op k p b := by
  have hsteps := microSteps_rotationAt s.cfg d.rot op k
  split
  next hle => exact finish_done _ { op := op, seq := k, pending := p } _ rfl rfl (by rw [← hsteps] at hle; exact hle)
  next hlt =>
    rw [← hsteps] at hlt
    exact finish_before _ { op := op, seq := k, pending := p } _ rfl rfl (Nat.lt_of_not_le hlt)

section FromStart

variable {s : State} {d : Driver} {op : Operation}

/-- An operation stands at its call `k`, with or without the suspension before it made. -/
theorem atCall_of_start (h : Starting s d op) (hop : op ≠ .send) (k : Nat) (m : MicroStep) (ev : Event) (p : Bool)
    (b : Option CmdBuf) (hm : (microSteps s.cfg d.rot op)[k]? = some m) (hev : (operationTrace s.cfg d op)[k]? = some ev)
    (hb : Loaded s d op k b) (hsus : suspendsBefore { op := op, seq := k, pending := p } m = false) :
    AtCall s d op k m ev p b :=
  ⟨hop, hm, hev, hb, h.exclusive, hsus⟩

/-- Only the sixth and last micro-step suspends. -/
theorem suspendsBefore_last (k : Nat) (m : MicroStep) (p : Bool) (hm : (microSteps s.cfg d.rot op)[k]? = some m)
    (h : suspendsBefore { op := op, seq := k, pending := p } m = true) : op = .flushCooperative ∧ k = 5 := by
  obtain ⟨hcoop, hk, -⟩ := suspendsBefore_at s.cfg d.rot { op := op, seq := k, pending := p } m hm h
  exact ⟨hcoop, hk⟩

theorem micro_of_event (hop : op ≠ .send) (k : Nat) (ev : Event) (hev : (operationTrace s.cfg d op)[k]? = some ev) :
    ∃ m, (microSteps s.cfg d.rot op)[k]? = some m := by
  obtain ⟨hk, -⟩ := List.getElem?_eq_some_iff.1 hev
  rw [operationTrace_length s.cfg d op hop] at hk
  exact ⟨_, List.getElem?_eq_getElem hk⟩

/-- Answered calls take a run to every call of the list. -/
theorem run_walked (h : Starting s d op) (hop : op ≠ .send) (k : Nat) (hk : k < (operationTrace s.cfg d op).length)
    (hans : Answered s d op k) : ∃ b, Loaded s d op k b ∧ run k s = .next (s.walked d op k false b) := by
  induction k with
  | zero =>
    exact ⟨s.cmdbuf, fun hc => absurd hc (calls_shape op 0).2.1, by rw [run_zero, walked_zero s d op h]⟩
  | succ k ih =>
    have hev := List.getElem?_eq_getElem (Nat.lt_of_succ_lt hk)
    obtain ⟨hbefore, hret⟩ := hans.before hev
    obtain ⟨b, hb, hrun⟩ := ih (Nat.lt_of_succ_lt hk) hbefore
    obtain ⟨m, hm⟩ := micro_of_event hop k _ hev
    rw [operationTrace_length s.cfg d op hop] at hk
    have hsus : suspendsBefore { op := op, seq := k, pending := false } m = false := by
      rw [← Bool.not_eq_true]
      intro hsus
      obtain ⟨rfl, rfl⟩ := suspendsBefore_last k m false hm hsus
      rw [← callsOf_length] at hk
      exact absurd hk (by decide)
    obtain ⟨b', hb', hstep⟩ := (atCall_of_start h hop k m _ false b hm hev hb hsus).step_returns hret
    refine ⟨b', hb', ?_⟩
    rw [run_succ_last k s _ hrun, hstep, finish_walked, if_neg (Nat.not_le_of_lt hk)]

/-- The suspension of a cooperative `flush` makes its data write pending (42_framebuffer.md R116). -/
theorem step_suspends (h : Starting s d op) (hop : op ≠ .send) (k : Nat) (m : MicroStep) (b : Option CmdBuf)
    (hm : (microSteps s.cfg d.rot op)[k]? = some m)
    (hsus : suspendsBefore { op := op, seq := k, pending := false } m = true) :
    step (s.walked d op k false b) = .next (s.walked d op k true b) := by
  rw [step_walks (s.walked d op k false b) { op := op, seq := k, pending := false } _ m rfl (fun hs => hop hs.1)
    h.exclusive rfl (walked_micro hm), microStep, if_pos hsus]
  rfl

/-- The last of the steps that bring an operation past call `k` is the one that makes the call. -/
theorem run_stepsFor (h : Starting s d op) (hop : op ≠ .send) (k : Nat) (ev : Event)
    (hev : (operationTrace s.cfg d op)[k]? = some ev) (hans : Answered s d op k) :
    ∃ m p b, AtCall s d op k m ev p b ∧ run (stepsFor op (k + 1)) s = step (s.walked d op k p b) := by
  obtain ⟨hk, -⟩ := List.getElem?_eq_some_iff.1 hev
  obtain ⟨b, hb, hrun⟩ := run_walked h hop k hk hans
  obtain ⟨m, hm⟩ := micro_of_event hop k ev hev
  cases hsus : suspendsBefore { op := op, seq := k, pending := false } m with
  | true =>
    obtain ⟨hcoop, hk5⟩ := suspendsBefore_last k m false hm hsus
    have hissued : suspendsBefore { op := op, seq := k, pending := true } m = false := by simp [suspendsBefore]
    refine ⟨m, true, b, atCall_of_start h hop k m ev true b hm hev hb hissued, ?_⟩
    rw [stepsFor, if_pos ⟨hcoop, by omega⟩,
      run_succ_last (k + 1) s _ (by rw [run_succ_last k s _ hrun, step_suspends h hop k m b hm hsus])]
  | false =>
    refine ⟨m, false, b, atCall_of_start h hop k m ev false b hm hev hb hsus, ?_⟩
    have hnot : ¬ (op = .flushCooperative ∧ 5 < k + 1) := by
      rintro ⟨rfl, hk5⟩
      rw [operationTrace_length s.cfg d _ hop, ← callsOf_length] at hk
      have hk6 : k < 6 := hk
      obtain rfl : k = 5 := by omega
      have hcall := callsOf_at s.cfg d.rot .flushCooperative m 5 hm
      have hdata : m.call = .busData := (Option.some.inj hcall).symm
      simp [suspendsBefore, hdata] at hsus
    rw [stepsFor, if_neg hnot, run_succ_last k s _ hrun]

end FromStart

/-- The state in which an operation has returned `ok`. -/
def State.finished (s : State) (d : Driver) (op : Operation) : State :=
  { s with
    driver := some { d with rot := rotationAfter op d.rot }
    op := none
    cmdbuf := none
    answers := s.answers.skip (answersIn (operationTrace s.cfg d op))
    delays := s.delays.skip (delaysIn (operationTrace s.cfg d op))
    trace := s.trace ++ operationTrace s.cfg d op
    reply := some .ok }

theorem operationTrace_pos (cfg : Config) (d : Driver) (op : Operation) (h : op ≠ .send) :
    0 < (operationTrace cfg d op).length := by
  rw [operationTrace_length cfg d op h, ← callsOf_length]
  exact callsOf_pos op

/-- Answered calls take an operation to its last call, and that call to its end. -/
theorem run_finishes (s : State) (d : Driver) (op : Operation) (h : Starting s d op) (hop : op ≠ .send)
    (hok : s.okFor (answersIn (operationTrace s.cfg d op))) (hdel : s.returnsFor (delaysIn (operationTrace s.cfg d op))) :
    run (stepsFor op (operationTrace s.cfg d op).length) s = .next (s.finished d op) := by
  obtain ⟨k, hk⟩ := Nat.exists_eq_succ_of_ne_zero (Nat.ne_of_gt (operationTrace_pos s.cfg d op hop))
  have hev := List.getElem?_eq_getElem (show k < (operationTrace s.cfg d op).length by omega)
  have hall : (operationTrace s.cfg d op).take (k + 1) = operationTrace s.cfg d op := List.take_of_length_le (by omega)
  have hans : Answered s d op (k + 1) := ⟨by rw [hall]; exact hok, by rw [hall]; exact hdel⟩
  obtain ⟨hbefore, hret⟩ := hans.before hev
  obtain ⟨m, p, b, hat, hrun⟩ := run_stepsFor h hop k _ hev hbefore
  obtain ⟨b', -, hstep⟩ := hat.step_returns hret
  rw [hk, hrun, hstep, finish_walked, ← operationTrace_length s.cfg d op hop, if_pos (Nat.le_of_eq hk)]
  refine congrArg Host.Outcome.next (State.eq_of_fields rfl rfl rfl rfl rfl rfl ?_ ?_ ?_ rfl) <;>
    simp [State.walked, State.finished, hall]

/-- Settles O25. -/
theorem operationMakesItsWholeListAndReturnsOk : Obligations.OperationMakesItsWholeListAndReturnsOk := run_finishes

/-- Answered calls take an operation to the call that fails, and that call ends it. -/
theorem run_fails (s : State) (d : Driver) (op : Operation) (k : Nat) (ev : Event) (e : ErrorValue) (f : Failure)
    (h : Starting s d op) (hop : op ≠ .send) (hev : (operationTrace s.cfg d op)[k]? = some ev)
    (hf : ev.failureKind e = some f) (hok : s.okFor (answersIn ((operationTrace s.cfg d op).take k)))
    (hdel : s.returnsFor (delaysIn ((operationTrace s.cfg d op).take k)))
    (herr : s.answers.get (answersIn ((operationTrace s.cfg d op).take k)) = some (.error e)) :
    run (stepsFor op (k + 1)) s = .next (s.failedAt d op k ev e f) := by
  obtain ⟨m, p, b, hat, hrun⟩ := run_stepsFor h hop k ev hev ⟨hok, hdel⟩
  have ha : ev.answered = true := by
    cases ev with
    | delayMs n => cases hf
    | _ => rfl
  rw [hrun]
  rcases hat.step_cases with ⟨-, hnone, -⟩ | ⟨hret, -⟩ | ⟨-, e', f', he', hf', hstep⟩
  · rw [hnone ha] at herr
    cases herr
  · rw [CallReturns, if_pos ha, herr] at hret
    cases hret
  · rw [herr] at he'
    cases he'
    rw [hf] at hf'
    cases hf'
    exact hstep

/-- Settles O26. -/
theorem failingMicroStepEndsItsOperation : Obligations.FailingMicroStepEndsItsOperation := run_fails

/-- A call that never answers hangs its operation (60_exceptions.md R154). -/
theorem run_hangs (s : State) (d : Driver) (op : Operation) (k : Nat) (ev : Event) (h : Starting s d op) (hop : op ≠ .send)
    (hev : (operationTrace s.cfg d op)[k]? = some ev) (ha : ev.answered = true) (hans : Answered s d op k)
    (hnone : s.answers.get (answersIn ((operationTrace s.cfg d op).take k)) = none) :
    run (stepsFor op (k + 1)) s = .fault .capabilityNeverAnswers := by
  obtain ⟨m, p, b, hat, hrun⟩ := run_stepsFor h hop k ev hev hans
  rw [hrun]
  rcases hat.step_cases with ⟨-, -, hstep⟩ | ⟨hret, -⟩ | ⟨-, e', f', he', -, -⟩
  · exact hstep
  · rw [CallReturns, if_pos ha, hnone] at hret
    cases hret
  · rw [hnone] at he'
    cases he'

end Sys2Proof.Machine

/-! PROOFS. Two equivalences: the two micro-steps of a Command and its exec (40_command_codec.md R70), and the cooperative
`flush` and `flush` (42_framebuffer.md R116). -/

namespace Sys2Proof.Machine

/-! ## A Command inside an operation -/

/-- What has failed has no operation in progress. -/
def Tried.endsFailed : Tried → Prop
  | .failed t => t.op = none
  | .ok _ => True
  | .stuck _ => True

theorem performCall_endsFailed (d : Driver) (c : Call) (s : State) : (performCall d c s).endsFailed := by
  rcases performCall_cases d c s with ⟨f, hp, -⟩ | ⟨ev, -, -, -, hp⟩ | ⟨-, -, hp⟩ | ⟨ev, e, kind, -, -, -, -, hp⟩ <;>
    rw [hp]
  · trivial
  · trivial
  · trivial
  · rfl

/-- The end check after a failure finds nothing to end. -/
theorem finishOutcome_outcome (x : Tried) (h : x.endsFailed) : finishOutcome (x.outcome id) = x.outcome finish := by
  cases x with
  | failed t => exact congrArg Host.Outcome.next (finish_idle t h)
  | _ => rfl

/-- A Command's exec with the end check is its two calls, the second made after the first answered `ok`. -/
theorem finishOutcome_exec (i : Instr) (s : State) (d : Driver) (hd : s.driver = some d) :
    finishOutcome (exec i s) = ((performCall d .dcCommand (loadCommand (encode s.cfg i) s)).andThen
      (performCall d .busCommand)).outcome finish := by
  have hexec : exec i s = ((performCall d .dcCommand (loadCommand (encode s.cfg i) s)).andThen
      (performCall d .busCommand)).outcome id := by
    rw [exec_eq_send, send, hd]
    rfl
  have hends : ((performCall d .dcCommand (loadCommand (encode s.cfg i) s)).andThen
      (performCall d .busCommand)).endsFailed := by
    have hfirst := performCall_endsFailed d .dcCommand (loadCommand (encode s.cfg i) s)
    cases hp : performCall d .dcCommand (loadCommand (encode s.cfg i) s) with
    | ok t => exact performCall_endsFailed d .busCommand t
    | failed t => rwa [hp] at hfirst
    | stuck f => trivial
  rw [hexec, finishOutcome_outcome _ hends]

/-- A micro-step that does not suspend, of a list that nobody cuts in on. -/
theorem step_call (s : State) (d : Driver) (r : Running) (m : MicroStep) (hd : s.driver = some d) (hr : s.op = some r)
    (hq : s.requests = []) (hop : r.op ≠ .send) (hm : (microSteps s.cfg d.rot r.op)[r.seq]? = some m)
    (hc : m.call ≠ .busData) : step s = (performCall d m.call (prepare m s)).outcome finish := by
  rw [step_walks s r d m hr (fun h => hop h.1) (by simp only [overlapping, hq]) hd hm,
    microStep_call s r d m (by simp [suspendsBefore, hc])]

/-- The second of the two calls, when the end check has found that it is still to come. -/
theorem run_busCommand (t : State) (d : Driver) (r : Running) (hd : t.driver = some d) (hr : t.op = some r)
    (hq : t.requests = []) (hop : r.op ≠ .send)
    (hm : (microSteps t.cfg d.rot r.op)[r.seq]? = some ⟨none, none, .busCommand⟩) :
    run 1 (finish t) = (performCall d .busCommand t).outcome finish := by
  rw [finish_before t r d hr hd (List.getElem?_eq_some_iff.1 hm).1, run_one,
    step_call t d r _ hd hr hq hop hm (by decide)]
  rfl

/-- Settles O24, by the answer of the first of the two calls. -/
theorem twoMicroStepsOfACommandAreItsExec : Obligations.TwoMicroStepsOfACommandAreItsExec := by
  intro s d r i hd hr hq hop hline hwrite
  have hfirst := step_call s d r _ hd hr hq hop hline (by simp)
  rw [prepare_load] at hfirst
  rw [finishOutcome_exec i s d hd, run_step, hfirst]
  rcases performCall_cases d .dcCommand (loadCommand (encode s.cfg i) s) with ⟨f, hp, -⟩ | ⟨ev, -, -, -, hp⟩ |
    ⟨hc, -, -⟩ | ⟨ev, e, kind, -, -, -, -, hp⟩
  · rw [hp]
    rfl
  · rw [hp]
    exact run_busCommand _ d { r with seq := r.seq + 1 } hd (by simp [hr]) hq hop hwrite
  · cases hc
  · rw [hp]
    exact run_rest _ 1 rfl hq

/-! ## The cooperative flush -/

/-- More steps change nothing after a fault, and nothing after an operation has ended and nothing is asked. -/
theorem run_add_fault (m n : Nat) (s : State) (f : Fault) (h : run m s = .fault f) : run (m + n) s = .fault f := by
  induction m generalizing s with
  | zero => cases h
  | succ m ih =>
    rw [run_step] at h
    rw [show m + 1 + n = (m + n) + 1 by omega, run_step]
    cases hs : step s with
    | next t => rw [hs] at h; exact ih t h
    | fault f' => rw [hs] at h; exact h
    | refused q => rw [hs] at h; cases h

theorem run_add_rest (m n : Nat) (s t : State) (h : run m s = .next t) (hop : t.op = none) (hq : t.requests = []) :
    run (m + n) s = .next t := by
  rw [run_add m n s t h, run_rest t n hop hq]

/-- The state with an operation put at its start. -/
def State.begun (s : State) (op : Operation) : State := { s with op := some { op := op, seq := 0, pending := false } }

theorem begun_starting (s : State) (d : Driver) (op : Operation) (hd : s.driver = some d) (hq : s.requests = []) :
    Starting (s.begun op) d op :=
  ⟨hd, rfl, by simp only [State.begun, overlapping, hq]⟩

/-- Every one of the six calls of `flush` takes an answer. -/
theorem flushTrace_answered (cfg : Config) (fb : Memory) : ∀ ev, ev ∈ flushTrace cfg fb → ev.answered = true := by
  simp [flushTrace, sendTrace, Event.answered]

theorem answersIn_of_answered (t : List Event) (h : ∀ ev, ev ∈ t → ev.answered = true) : answersIn t = t.length :=
  List.countP_eq_length.2 h

theorem delaysIn_of_answered (t : List Event) (h : ∀ ev, ev ∈ t → ev.answered = true) : delaysIn t = 0 :=
  List.countP_eq_zero.2 fun ev hev => by rw [h ev hev]; exact Bool.false_ne_true

theorem failureKind_of_answered (ev : Event) (e : ErrorValue) (h : ev.answered = true) : ∃ f, ev.failureKind e = some f := by
  cases ev with
  | delayMs n => cases h
  | _ => exact ⟨_, rfl⟩

theorem stepsFor_mono (op : Operation) (j k : Nat) (h : j ≤ k) : stepsFor op j ≤ stepsFor op k := by
  by_cases hop : op = .flushCooperative
  · simp only [stepsFor, hop, true_and]
    split <;> split <;> omega
  · simpa only [stepsFor, hop, false_and, if_false] using h

/-- A run of six calls begins with one of the first `k + 1`. -/
theorem stepsFor_six (op : Operation) (k : Nat) (hk : k < 6) :
    stepsFor op 6 = stepsFor op (k + 1) + (stepsFor op 6 - stepsFor op (k + 1)) :=
  (Nat.add_sub_of_le (stepsFor_mono op _ _ hk)).symm

theorem flushTrace_counts (cfg : Config) (fb : Memory) (k : Nat) (hk : k ≤ 6) :
    answersIn ((flushTrace cfg fb).take k) = k ∧ delaysIn ((flushTrace cfg fb).take k) = 0 := by
  have hall : ∀ ev, ev ∈ (flushTrace cfg fb).take k → ev.answered = true :=
    fun ev hev => flushTrace_answered cfg fb ev (List.mem_of_mem_take hev)
  have hlen : ((flushTrace cfg fb).take k).length = k := by
    rw [List.length_take]
    exact Nat.min_eq_left hk
  exact ⟨by rw [answersIn_of_answered _ hall, hlen], delaysIn_of_answered _ hall⟩

/-- Either `n` calls answer `ok`, or there is a first one that does not. -/
theorem okFor_or_first (s : State) (n : Nat) : s.okFor n ∨ ∃ k, k < n ∧ s.okFor k ∧ s.answers.get k ≠ some .ok := by
  induction n with
  | zero => exact .inl fun k hk => absurd hk (Nat.not_lt_zero k)
  | succ n ih =>
    rcases ih with hok | ⟨k, hk, hok, hne⟩
    · by_cases hn : s.answers.get n = some .ok
      · refine .inl fun k hk => ?_
        rcases Nat.lt_succ_iff_lt_or_eq.1 hk with hlt | rfl
        · exact hok k hlt
        · exact hn
      · exact .inr ⟨n, Nat.lt_succ_self n, hok, hn⟩
    · exact .inr ⟨k, Nat.lt_succ_of_lt hk, hok, hne⟩

/-- `flush` and its cooperative variant. -/
def Operation.isFlush (op : Operation) : Prop := op = .flush ∨ op = .flushCooperative

section FlushLike

variable {s : State} {d : Driver} {op : Operation} (hd : s.driver = some d) (hq : s.requests = []) (hop : op.isFlush)

include hd hq hop

theorem run_flush_ok (hok : s.okFor 6) : run (stepsFor op 6) (s.begun op) = .next (s.finished d .flush) := by
  rcases hop with rfl | rfl <;>
    exact run_finishes _ d _ (begun_starting s d _ hd hq) (by decide) hok fun k hk => absurd hk (Nat.not_lt_zero k)

theorem run_flush_error (k : Nat) (ev : Event) (e : ErrorValue) (f : Failure) (hk : k < 6) (hok : s.okFor k)
    (hev : (flushTrace s.cfg d.fb)[k]? = some ev) (hf : ev.failureKind e = some f) (herr : s.answers.get k = some (.error e)) :
    run (stepsFor op 6) (s.begun op) = .next (s.failedAt d .flush k ev e f) := by
  obtain ⟨hans, hdel⟩ := flushTrace_counts s.cfg d.fb k (Nat.le_of_lt hk)
  rw [← hans] at hok herr
  have hdelays : s.returnsFor (delaysIn ((flushTrace s.cfg d.fb).take k)) := by
    rw [hdel]
    exact fun j hj => absurd hj (Nat.not_lt_zero j)
  rw [stepsFor_six op k hk]
  refine run_add_rest (stepsFor op (k + 1)) _ _ _ ?_ rfl hq
  rcases hop with rfl | rfl <;>
    exact run_fails _ d _ k ev e f (begun_starting s d _ hd hq) (by decide) hev hf hok hdelays herr

theorem run_flush_never (k : Nat) (hk : k < 6) (hok : s.okFor k) (hnone : s.answers.get k = none) :
    run (stepsFor op 6) (s.begun op) = .fault .capabilityNeverAnswers := by
  obtain ⟨hans, hdel⟩ := flushTrace_counts s.cfg d.fb k (Nat.le_of_lt hk)
  have hev : (flushTrace s.cfg d.fb)[k]? = some (flushTrace s.cfg d.fb)[k] := List.getElem?_eq_getElem hk
  have ha := flushTrace_answered s.cfg d.fb _ (List.mem_of_getElem? hev)
  rw [← hans] at hok hnone
  have hdelays : s.returnsFor (delaysIn ((flushTrace s.cfg d.fb).take k)) := by
    rw [hdel]
    exact fun j hj => absurd hj (Nat.not_lt_zero j)
  rw [stepsFor_six op k hk]
  refine run_add_fault (stepsFor op (k + 1)) _ _ _ ?_
  rcases hop with rfl | rfl <;>
    exact run_hangs _ d _ k _ (begun_starting s d _ hd hq) (by decide) hev ha ⟨hok, hdelays⟩ hnone

end FlushLike

/-- Both variants come to the same end, by the first call that does not answer `ok`. -/
theorem run_flush_same (s : State) (d : Driver) (hd : s.driver = some d) (hq : s.requests = []) :
    run (stepsFor .flushCooperative 6) (s.begun .flushCooperative) = run (stepsFor .flush 6) (s.begun .flush) := by
  have hcoop : Operation.isFlush .flushCooperative := .inr rfl
  have hflush : Operation.isFlush .flush := .inl rfl
  rcases okFor_or_first s 6 with hok | ⟨k, hk, hok, hne⟩
  · rw [run_flush_ok hd hq hcoop hok, run_flush_ok hd hq hflush hok]
  · match ha : s.answers.get k with
    | none => rw [run_flush_never hd hq hcoop k hk hok ha, run_flush_never hd hq hflush k hk hok ha]
    | some .ok => exact absurd ha hne
    | some (.error e) =>
      have hev : (flushTrace s.cfg d.fb)[k]? = some (flushTrace s.cfg d.fb)[k] := List.getElem?_eq_getElem hk
      obtain ⟨f, hf⟩ := failureKind_of_answered _ e (flushTrace_answered s.cfg d.fb _ (List.mem_of_getElem? hev))
      rw [run_flush_error hd hq hcoop k _ e f hk hok hev hf ha, run_flush_error hd hq hflush k _ e f hk hok hev hf ha]

/-- An operation without its driver is refused at once (10_state.md R19). -/
theorem run_begun_noDriver (s : State) (op : Operation) (n : Nat) (hd : s.driver = none) (hq : s.requests = [])
    (hop : op ≠ .send) : run (n + 1) (s.begun op) = .refused .noDriver := by
  have hstep : step (s.begun op) = .refused .noDriver := by
    simp [State.begun, step, continueOperation, hop, leavesSuspended, hq, overlapping, walk, hd]
  rw [run_step, hstep]

/-- Settles O27. -/
theorem cooperativeFlushIsFlushWithASuspension : Obligations.CooperativeFlushIsFlushWithASuspension := by
  intro s hq
  cases hd : s.driver with
  | none =>
    rw [← hd]
    exact (run_begun_noDriver s .flushCooperative 6 hd hq (by decide)).trans
      (run_begun_noDriver s .flush 5 hd hq (by decide)).symm
  | some d =>
    rw [← hd]
    exact run_flush_same s d hd hq

end Sys2Proof.Machine

/-! PROOFS. The operations from the host's request to its answer (43_init_sequencer.md section 2, 42_framebuffer.md section 2,
41_rotation_geometry.md section 2). -/

namespace Sys2Proof.Machine

section FromRequest

variable {s : State} {d : Driver} {rest : List HostInput} {w : Bool} {q : Request} {op : Operation}

theorem Request.operation_ne_send (h : q.operation = some op) : op ≠ .send := by
  rintro rfl
  cases q <;> cases h

theorem started_starting (hd : s.driver = some d) (hover : overlapping { s with requests := rest } = false) :
    Starting (s.started op rest) d op :=
  ⟨hd, rfl, hover⟩

/-- The state in which the host has the answer `ok` to its request. -/
def State.served (s : State) (d : Driver) (op : Operation) (rest : List HostInput) : State :=
  (s.started op rest).finished d op

/-- A request whose calls all answer is taken up and its whole list made. -/
theorem run_serves (hd : s.driver = some d) (hop : s.op = none) (hq : s.requests = { request := q, waits := w } :: rest)
    (h : q.operation = some op) (hline : ∀ line delay, op = .reset line delay → s.lineFree line)
    (hover : overlapping { s with requests := rest } = false) (hok : s.okFor (answersIn (operationTrace s.cfg d op)))
    (hdel : s.returnsFor (delaysIn (operationTrace s.cfg d op))) :
    run (stepsFor op (operationTrace s.cfg d op).length + 1) s = .next (s.served d op rest) := by
  rw [run_succ _ s _ (step_starts s d rest w q op hd hop hq h hline)]
  exact run_finishes _ d op (started_starting hd hover) (q.operation_ne_send h) hok hdel

/-- A request whose call `k` fails, the calls before it answered. -/
theorem run_serve_fails (hd : s.driver = some d) (hop : s.op = none)
    (hq : s.requests = { request := q, waits := w } :: rest) (h : q.operation = some op)
    (hline : ∀ line delay, op = .reset line delay → s.lineFree line)
    (hover : overlapping { s with requests := rest } = false) (k : Nat) (ev : Event) (e : ErrorValue) (f : Failure)
    (hev : (operationTrace s.cfg d op)[k]? = some ev) (hf : ev.failureKind e = some f)
    (hok : s.okFor (answersIn ((operationTrace s.cfg d op).take k)))
    (hdel : s.returnsFor (delaysIn ((operationTrace s.cfg d op).take k)))
    (herr : s.answers.get (answersIn ((operationTrace s.cfg d op).take k)) = some (.error e)) :
    run (stepsFor op (k + 1) + 1) s = .next ((s.started op rest).failedAt d op k ev e f) := by
  rw [run_succ _ s _ (step_starts s d rest w q op hd hop hq h hline)]
  exact run_fails _ d op k ev e f (started_starting hd hover) (q.operation_ne_send h) hev hf hok hdel herr

end FromRequest

theorem returnsFor_zero (s : State) : s.returnsFor 0 := fun k hk => absurd hk (Nat.not_lt_zero k)

theorem okFor_zero (s : State) : s.okFor 0 := fun k hk => absurd hk (Nat.not_lt_zero k)

/-- No reset line is lent to an operation that is no `reset`. -/
theorem noLine (s : State) (op : Operation) (h : ∀ line delay, op ≠ .reset line delay) :
    ∀ line delay, op = .reset line delay → s.lineFree line :=
  fun line delay hreset => absurd hreset (h line delay)

/-- Settles O30: the list of `flush`, with its literal bytes. -/
theorem flushSendsTheWindowAndThenTheWholeBuffer : Obligations.FlushSendsTheWindowAndThenTheWholeBuffer := by
  intro s d rest w hd hop hq hover hok
  have hrun := run_serves hd hop hq rfl (noLine s .flush nofun) hover hok (returnsFor_zero s)
  rw [show run 7 s = _ from hrun]
  exact congrArg Host.Outcome.next
    (State.eq_of_fields rfl hd.symm rfl hop.symm rfl rfl rfl (Script.skip_zero s.delays) rfl rfl)

/-- Settles O31: the list of `reset`. -/
theorem resetMakesItsPulse : Obligations.ResetMakesItsPulse := by
  intro s d rest w rst delay hd hop hq hfree hover hok hdel
  have hline : ∀ line delay', Operation.reset rst delay = .reset line delay' → s.lineFree line := by
    rintro line delay' h
    cases h
    exact hfree
  have hrun := run_serves hd hop hq rfl hline hover hok hdel
  rw [show run 6 s = _ from hrun]
  exact congrArg Host.Outcome.next (State.eq_of_fields rfl hd.symm rfl hop.symm rfl rfl rfl rfl rfl rfl)

/-- Settles O34: one Command after the other, with their literal bytes. -/
theorem windowAndPowerOperationsSendTheirCommands : Obligations.WindowAndPowerOperationsSendTheirCommands := by
  intro s d rest w hd hop hover
  refine ⟨fun sx sy ex ey hq hok => ?_, fun hq hok => ?_, fun hq hok => ?_⟩
  · exact ⟨_, run_serves hd hop hq rfl (noLine s _ nofun) hover hok (returnsFor_zero s), rfl, rfl, rfl, rfl⟩
  · exact ⟨_, run_serves hd hop hq rfl (noLine s _ nofun) hover hok (returnsFor_zero s), rfl, rfl, rfl, rfl⟩
  · exact ⟨_, run_serves hd hop hq rfl (noLine s _ nofun) hover hok (returnsFor_zero s), rfl, rfl, rfl, rfl⟩

/-- Settles O33: the list of `set_rotation`, and its failure at each of its two calls. -/
theorem setRotationStoresAndThenSends : Obligations.SetRotationStoresAndThenSends := by
  intro s d rest w r hd hop hq hover
  refine ⟨fun hok => ?_, fun e herr => ?_, fun e hok herr => ?_⟩
  · exact ⟨_, run_serves hd hop hq rfl (noLine s _ nofun) hover hok (returnsFor_zero s), rfl, rfl, rfl, rfl⟩
  · refine ⟨_, run_serve_fails hd hop hq rfl (noLine s _ nofun) hover 0 _ e _ rfl rfl (okFor_zero s) (returnsFor_zero s)
      herr, rfl, rfl, rfl, ?_⟩
    exact congrArg (· ++ _) (List.append_nil s.trace)
  · have hfirst : s.okFor 1 := fun k hk => by rwa [Nat.lt_one_iff.1 hk]
    exact ⟨_, run_serve_fails hd hop hq rfl (noLine s _ nofun) hover 1 _ e _ rfl rfl hfirst (returnsFor_zero s)
      herr, rfl, rfl, rfl⟩

/-! ## init (43_init_sequencer.md R127) -/

theorem busPayloads_append (t u : List Event) : busPayloads (t ++ u) = busPayloads t ++ busPayloads u :=
  List.filterMap_append

/-- What a row of Commands puts on the bus. -/
theorem busPayloads_sends (cfg : Config) (is : List Instr) :
    busPayloads (is.flatMap (sendTrace cfg)) = is.map (encode cfg) := by
  induction is with
  | nil => rfl
  | cons i is ih =>
    rw [List.flatMap_cons, busPayloads_append, ih]
    rfl

/-- Every Command of a row begins with the command level. -/
theorem sends_even (cfg : Config) (is : List Instr) (k : Nat) (hk : k < is.length) :
    (is.flatMap (sendTrace cfg))[2 * k]? = some (.dcSet cfg.dcCommandLevel .ok) := by
  induction is generalizing k with
  | nil => cases hk
  | cons i is ih =>
    cases k with
    | zero => rfl
    | succ k => exact ih k (Nat.lt_of_succ_lt_succ hk)

/-- Settles O29: the list of `init`. -/
theorem initSendsTheTwelveCommandsInOrder : Obligations.InitSendsTheTwelveCommandsInOrder := by
  intro s d rest w hd hop hq hover hok
  exact ⟨_, run_serves hd hop hq rfl (noLine s .init nofun) hover hok (returnsFor_zero s), rfl, rfl, rfl,
    _, rfl, busPayloads_sends s.cfg (initCommands s.cfg d.rot), rfl, fun k hk => sends_even s.cfg _ k hk⟩

/-! ## A pixel, then flush -/

/-- Settles O44: the block that `flush` writes is the memory that `set_pixel` left. -/
theorem pixelRoundTripThroughFlush : Obligations.PixelRoundTripThroughFlush := by
  intro s d rest w v x y c hd hwf hop hq hover hx hy hin hok
  obtain ⟨m, hstep, -, hhigh, hlow, hrest⟩ := step_setPixel_inside s d _ w x y c hd hwf hop hq hx hy hin
  have hsize : FB_SIZE = 12288 := rfl
  have hindex := inBounds_byteIndex d.rot x y hin
  let u : State := { s with
    driver := some { d with fb := m }, requests := { request := .flush, waits := v } :: rest, reply := some .nothing }
  have hflush : run 7 u = .next (u.served { d with fb := m } .flush rest) :=
    run_serves (s := u) (w := v) (q := .flush) rfl hop rfl rfl (noLine u .flush nofun) hover hok (returnsFor_zero u)
  refine ⟨_, m.bytes, (run_succ 7 s u hstep).trans hflush, rfl, ?_, m.bytes_length, ?_, ?_, fun a ha h1 h2 => ?_⟩
  · have hlast : (flushTrace s.cfg m).getLast? = some (.busWrite m.bytes .ok) := rfl
    exact (List.getLast?_append_of_ne_nil s.trace (by simp [operationTrace, flushTrace])).trans hlast
  · rw [m.bytes_getElem? _ (by omega), Option.map_some, hhigh]
  · rw [m.bytes_getElem? _ (by omega), Option.map_some, hlow]
  · rw [m.bytes_getElem? a ha, hrest a h1 h2]

/-! ## The data/command line (70_reset_and_hazards.md R172) -/

theorem dcLevel_append_set (t : List Event) (l : Level) : dcLevel (t ++ [.dcSet l .ok]) = some l := by
  rw [dcLevel, List.foldl_append]
  rfl

/-- A bus write does not move the line. -/
theorem dcLevel_append_write (t : List Event) (bs : List Byte) (a : Answer) : dcLevel (t ++ [.busWrite bs a]) = dcLevel t := by
  rw [dcLevel, List.foldl_append]
  rfl

/-- A call that fails leaves the line where it was. -/
theorem dcLevel_append_failing (t : List Event) (ev : Event) (e : ErrorValue) :
    dcLevel (t ++ [ev.failing e]) = dcLevel t := by
  rw [dcLevel, List.foldl_append]
  cases ev <;> rfl

/-- After a line set and a write the line is where it was set. -/
theorem dcLevel_append_set_write (t : List Event) (l : Level) (bs : List Byte) :
    dcLevel (t ++ [.dcSet l .ok, .busWrite bs .ok]) = some l := by
  rw [List.append_cons, dcLevel_append_write, dcLevel_append_set]

/-- Settles O54. -/
theorem dataCommandLineFollowsTheCalls : Obligations.DataCommandLineFollowsTheCalls := by
  refine ⟨fun i s d hd hok => ?_, fun s d h hok => ?_, fun s d op k ev e f h hop hev hf hok hdel herr => ?_⟩
  · exact ⟨_, exec_completes i s d hd hok, dcLevel_append_set_write _ _ _⟩
  · refine ⟨_, run_finishes s d .flush h (by decide) hok (returnsFor_zero s), rfl, ?_⟩
    rw [State.finished, operationTrace, flushTrace, ← List.append_assoc]
    exact dcLevel_append_set_write _ _ _
  · exact ⟨_, run_fails s d op k ev e f h hop hev hf hok hdel herr, rfl, dcLevel_append_failing _ ev e⟩

/-! ## The remap register (70_reset_and_hazards.md R166) -/

/-- A Command with another first byte than the remap Command leaves what is known of the register. -/
theorem knownRemap_send_other (cfg : Config) (t : List Event) (i : Instr) (h : firstByte cfg i.opcode ≠ 0xA0#8) :
    knownRemap (t ++ sendTrace cfg i) = knownRemap t := by
  rw [knownRemap, List.foldl_append, sendTrace, encode_eq_cons]
  match (encode cfg i).tail with
  | [] => rfl
  | [c] => exact if_neg h
  | _ :: _ :: _ => rfl

/-- The remap Command makes its byte known. -/
theorem knownRemap_send_remap (cfg : Config) (t : List Event) (h v : Bool) (m : ColourMode) (inc : AddrIncMode) :
    knownRemap (t ++ sendTrace cfg (.remapAndColorDepth h v m inc)) = some (remapByte cfg h v m inc) := by
  rw [knownRemap, List.foldl_append]
  rfl

/-- Distinct first bytes tell every other Command from the remap Command (R58). -/
theorem firstByte_ne_remap (cfg : Config) (o : Opcode) (hcfg : cfg.distinctFirstBytes = true)
    (h : o ≠ .remapAndColorDepth) : firstByte cfg o ≠ 0xA0#8 := by
  intro heq
  have ho := opcodeOf_firstByte cfg o hcfg
  rw [heq, show (0xA0#8 : Byte) = firstByte cfg .remapAndColorDepth from rfl, opcodeOf_firstByte cfg _ hcfg] at ho
  exact h (Option.some.inj ho).symm

/-- A row of other Commands leaves what is known of the register. -/
theorem knownRemap_sends_other (cfg : Config) (hcfg : cfg.distinctFirstBytes = true) (is : List Instr) (t : List Event)
    (h : ∀ i, i ∈ is → i.opcode ≠ .remapAndColorDepth) : knownRemap (t ++ is.flatMap (sendTrace cfg)) = knownRemap t := by
  induction is generalizing t with
  | nil => rw [List.flatMap_nil, List.append_nil]
  | cons i is ih =>
    rw [List.forall_mem_cons] at h
    rw [List.flatMap_cons, ← List.append_assoc, ih _ h.2, knownRemap_send_other cfg t i (firstByte_ne_remap cfg _ hcfg h.1)]

/-- The remap Command is the sixth of `init`, and no later one is. -/
theorem initCommands_eq (cfg : Config) (rot : Rotation) : ∃ before after,
    initCommands cfg rot = before ++ remapCommand cfg rot :: after ∧
      ∀ i, i ∈ after → i.opcode ≠ .remapAndColorDepth := by
  refine ⟨(initCommands cfg rot).take 5, (initCommands cfg rot).drop 6, rfl, ?_⟩
  simp [initCommands, Instr.opcode]

/-- What is known after the whole list of `init` or `set_rotation`. -/
theorem knownRemap_operationTrace (cfg : Config) (d : Driver) (op : Operation) (t : List Event)
    (hcfg : cfg.distinctFirstBytes = true) (hop : op = .init ∨ ∃ r, op = .setRotation r) :
    knownRemap (t ++ operationTrace cfg d op) = some (remapByte cfg (cfg.rotTable.row (rotationAfter op d.rot)).hMirror
      (cfg.rotTable.row (rotationAfter op d.rot)).vMirror .cm65k (cfg.rotTable.row (rotationAfter op d.rot)).inc) := by
  rcases hop with rfl | ⟨r, rfl⟩
  · obtain ⟨before, after, heq, hafter⟩ := initCommands_eq cfg d.rot
    rw [operationTrace, heq, List.flatMap_append, List.flatMap_cons, ← List.append_assoc, ← List.append_assoc,
      knownRemap_sends_other cfg hcfg after _ hafter]
    exact knownRemap_send_remap cfg _ _ _ _ _
  · exact knownRemap_send_remap cfg t _ _ _ _

/-- Settles O55. -/
theorem rotationAgreesWithTheDeviceAfterSetRotationAndInit :
    Obligations.RotationAgreesWithTheDeviceAfterSetRotationAndInit := by
  intro s d op hcfg hop h hok
  have hlisted : op ≠ .send ∧ stepsFor op (operationTrace s.cfg d op).length = (operationTrace s.cfg d op).length ∧
      delaysIn (operationTrace s.cfg d op) = 0 := by
    rcases hop with rfl | ⟨r, rfl⟩ <;> exact ⟨nofun, rfl, rfl⟩
  obtain ⟨hsend, hsteps, hdel⟩ := hlisted
  have hrun := run_finishes s d op h hsend hok (by rw [hdel]; exact returnsFor_zero s)
  rw [hsteps] at hrun
  exact ⟨_, _, hrun, rfl, rfl, rfl, knownRemap_operationTrace s.cfg d op s.trace hcfg hop⟩

end Sys2Proof.Machine
